-- ==== Sys2Proof/Word.lean ====
section
/-!
DEFINITION. The widths of the block's data: one byte of `OUT` or one sample of `PIX`, a 32-bit register, a command
word (spec 00_scope.md R6, R9; 30_encoding.md R90). All arithmetic of the block is on exact natural numbers (R8,
R204); a result is narrowed to a register's width only where it is written.
-/

namespace Sys2Proof

/-- One byte of `OUT`, or one sample of `PIX` (R9, decision D6: a sample is 8 bits). -/
abbrev Byte := BitVec 8

/-- A 32-bit register of R20. -/
abbrev Word := BitVec 32

/-- The command word `CMD[95:0]` (R90). -/
abbrev CmdWord := BitVec 96

/-- The number of values of a 32-bit register, and of addresses of `OUT` (R60). -/
abbrev wordSpan : Nat := 2 ^ 32

/-- The number of sample indices: a sample index is a 64-bit unsigned number (R60). -/
abbrev sampleSpan : Nat := 2 ^ 64

end Sys2Proof
end

