-- ==== Sys2Proof/Config.lean ====
section
/-!
DEFINITION. The free values the spec leaves open: the contents of the two memories at power-up (R48). The block's
parameters are all fixed by R6 and stand where they are used (the depths in Machine/Stride.lean, the row order in
Machine/Operands.lean).
-/

namespace Sys2Proof.Config

/-- FREE VALUE: what sample `i` of `PIX` holds before the host has written it. R48: the contents of `PIX` "are
unspecified at power-up". It has no body, so no proof can see a value of it. Log entry 1. DESIGN CHOICE, safe. -/
opaque powerUpSample : Nat → Byte

/-- FREE VALUE: what byte `a` of `OUT` holds before anything has written it (R48). Log entry 1. DESIGN CHOICE, safe. -/
opaque powerUpOutByte : Nat → Byte

end Sys2Proof.Config
end

