-- ==== Sys2Proof/Syntax.lean ====
section
/-!
DEFINITION. The instructions of the block, one constructor for each of the 24 rows of spec/opcode_table.json (R98):
the two host commands with their operands (R91, R93), the five micro-operations of the sequencer (R100) and the
seventeen header-field emitters (R101). Only the commands carry operands.
-/

namespace Sys2Proof

/-- An instruction: a host command, a sequencer micro-operation or a header-field emitter (00_scope.md, section 1). -/
inductive Instr where
  /-- `CFG width, height, bpp` (R91, R121). -/
  | cfg (width height : Word) (bpp : BitVec 16)
  /-- `ENC pixlen` (R93, R122). -/
  | enc (pixlen : BitVec 64)
  /-- `HDR.BYTE` (R141). -/
  | hdrByte
  /-- `PK1.SHIFT` (R173). -/
  | pk1Shift
  /-- `PK1.FLUSH` (R174). -/
  | pk1Flush
  /-- `PK24.BYTE` (R181). -/
  | pk24Byte
  /-- `PAD.BYTE` (R199). -/
  | padByte
  /-- `HF.MAGIC` (R142). -/
  | hfMagic
  /-- `HF.FSIZE` (R143). -/
  | hfFsize
  /-- `HF.RSVD` (R144). -/
  | hfRsvd
  /-- `HF.DOFF` (R145). -/
  | hfDoff
  /-- `HF.DIBSZ` (R146). -/
  | hfDibsz
  /-- `HF.WIDTH` (R147). -/
  | hfWidth
  /-- `HF.HEIGHT` (R148). -/
  | hfHeight
  /-- `HF.PLANES` (R149). -/
  | hfPlanes
  /-- `HF.BPP` (R150). -/
  | hfBpp
  /-- `HF.COMP` (R151). -/
  | hfComp
  /-- `HF.ISIZE` (R152). -/
  | hfIsize
  /-- `HF.XRES` (R153). -/
  | hfXres
  /-- `HF.YRES` (R154). -/
  | hfYres
  /-- `HF.NCOL` (R155). -/
  | hfNcol
  /-- `HF.NIMP` (R156). -/
  | hfNimp
  /-- `HF.PAL0` (R157). -/
  | hfPal0
  /-- `HF.PAL1` (R158). -/
  | hfPal1
deriving DecidableEq, Repr

end Sys2Proof
end

