-- ==== Sys2Proof/Decode.lean ====
section
/-!
DEFINITION. The encodings (30_encoding.md): the command word (R90 to R95), the dispatch vector `DISP` that selects a
micro-operation (R99, R100) and the index `FIDX` that selects a header field (R101); a decoder for each, total,
rejecting by name, then an encoder, and the rows of spec/opcode_table.json (R98).
-/

namespace Sys2Proof

/-- The three encoding spaces of the opcode table (R98): a command word, a dispatch vector, a field index. -/
inductive Code where
  /-- A 96-bit command word `CMD[95:0]` (R90). -/
  | command (word : CmdWord)
  /-- A 4-bit dispatch vector `DISP[3:0] = {F, PHASE[2:0]}` (R99). -/
  | disp (vector : BitVec 4)
  /-- A 5-bit field index `FIDX` within `HDR.BYTE` (R101). -/
  | fidx (index : BitVec 5)
deriving DecidableEq, Repr

/-- Why a code has no instruction. -/
inductive DecodeError where
  /-- A command word whose opcode is neither `0x01` nor `0x02` (R95). -/
  | reservedOpcode
  /-- A command word with a nonzero reserved bit (R95). -/
  | reservedBits
  /-- `PHASE = 0`: no sequencer step is enabled (R100). -/
  | idlePhase
  /-- `PHASE` is 5, 6 or 7 (R108). -/
  | reservedPhase
  /-- `FIDX` is 17 to 31 (R109). -/
  | reservedField
deriving DecidableEq, Repr

/-- The opcode field `CMD[95:88]` (R92). -/
def cmdOpcode (w : CmdWord) : BitVec 8 := w.extractLsb' 88 8

/-- `width = CMD[31:0]` (R91, R94). -/
def cmdWidth (w : CmdWord) : Word := w.extractLsb' 0 32

/-- `height = CMD[63:32]` (R91, R94). -/
def cmdHeight (w : CmdWord) : Word := w.extractLsb' 32 32

/-- `bpp = CMD[79:64]` (R91, R94). -/
def cmdBpp (w : CmdWord) : BitVec 16 := w.extractLsb' 64 16

/-- The reserved bits `CMD[87:80]` of format `C` (R91). -/
def cmdReservedC (w : CmdWord) : BitVec 8 := w.extractLsb' 80 8

/-- `pixlen = CMD[63:0]` (R93, R94). -/
def cmdPixlen (w : CmdWord) : BitVec 64 := w.extractLsb' 0 64

/-- The reserved bits `CMD[87:64]` of format `E` (R93). -/
def cmdReservedE (w : CmdWord) : BitVec 24 := w.extractLsb' 64 24

/-- Decodes a command word (R91 to R95). -/
def decodeCommand (w : CmdWord) : Except DecodeError Instr :=
  if cmdOpcode w = 0x01#8 then
    if cmdReservedC w = 0#8 then .ok (.cfg (cmdWidth w) (cmdHeight w) (cmdBpp w)) else .error .reservedBits
  else if cmdOpcode w = 0x02#8 then
    if cmdReservedE w = 0#24 then .ok (.enc (cmdPixlen w)) else .error .reservedBits
  else .error .reservedOpcode

/-- The micro-operation a dispatch vector selects (R99, R100): bits 2..0 are `PHASE`, bit 3 is the flush condition,
which only the two `PIX1` rows test. -/
def decodeDisp (d : BitVec 4) : Except DecodeError Instr :=
  match (d.extractLsb' 0 3).toNat with
  | 0 => .error .idlePhase
  | 1 => .ok .hdrByte
  | 2 => if d.extractLsb' 3 1 = 1#1 then .ok .pk1Flush else .ok .pk1Shift
  | 3 => .ok .pk24Byte
  | 4 => .ok .padByte
  | _ => .error .reservedPhase

/-- The field emitter `FIDX` selects (R101). -/
def decodeFidx (f : BitVec 5) : Except DecodeError Instr :=
  match f.toNat with
  | 0 => .ok .hfMagic
  | 1 => .ok .hfFsize
  | 2 => .ok .hfRsvd
  | 3 => .ok .hfDoff
  | 4 => .ok .hfDibsz
  | 5 => .ok .hfWidth
  | 6 => .ok .hfHeight
  | 7 => .ok .hfPlanes
  | 8 => .ok .hfBpp
  | 9 => .ok .hfComp
  | 10 => .ok .hfIsize
  | 11 => .ok .hfXres
  | 12 => .ok .hfYres
  | 13 => .ok .hfNcol
  | 14 => .ok .hfNimp
  | 15 => .ok .hfPal0
  | 16 => .ok .hfPal1
  | _ => .error .reservedField

/-- The instruction a code stands for, in whichever space it lies. -/
def decode : Code → Except DecodeError Instr
  | .command w => decodeCommand w
  | .disp d => decodeDisp d
  | .fidx f => decodeFidx f

/-- The command word of a `CFG`: format `C`, reserved bits zero (R91). -/
def cfgWord (width height : Word) (bpp : BitVec 16) : CmdWord :=
  (0x01#8 ++ 0#8 ++ bpp ++ height ++ width : BitVec (8 + 8 + 16 + 32 + 32))

/-- The command word of an `ENC`: format `E`, reserved bits zero (R93). -/
def encWord (pixlen : BitVec 64) : CmdWord :=
  (0x02#8 ++ 0#24 ++ pixlen : BitVec (8 + 24 + 64))

/-- The code of an instruction; of the vectors that select a micro-operation whatever `F` is, the one with `F = 0`. -/
def encode : Instr → Code
  | .cfg width height bpp => .command (cfgWord width height bpp)
  | .enc pixlen => .command (encWord pixlen)
  | .hdrByte => .disp 0x1#4
  | .pk1Shift => .disp 0x2#4
  | .pk1Flush => .disp 0xA#4
  | .pk24Byte => .disp 0x3#4
  | .padByte => .disp 0x4#4
  | .hfMagic => .fidx 0#5
  | .hfFsize => .fidx 1#5
  | .hfRsvd => .fidx 2#5
  | .hfDoff => .fidx 3#5
  | .hfDibsz => .fidx 4#5
  | .hfWidth => .fidx 5#5
  | .hfHeight => .fidx 6#5
  | .hfPlanes => .fidx 7#5
  | .hfBpp => .fidx 8#5
  | .hfComp => .fidx 9#5
  | .hfIsize => .fidx 10#5
  | .hfXres => .fidx 11#5
  | .hfYres => .fidx 12#5
  | .hfNcol => .fidx 13#5
  | .hfNimp => .fidx 14#5
  | .hfPal0 => .fidx 15#5
  | .hfPal1 => .fidx 16#5

/-- Which of the three encoding spaces a row of the opcode table lies in. -/
inductive Space where
  /-- "command word CMD[95:0]". -/
  | command
  /-- "dispatch vector DISP[3:0]". -/
  | disp
  /-- "FIDX register, within HDR.BYTE". -/
  | fidx
deriving DecidableEq, Repr

/-- A row of spec/opcode_table.json: its space, and the bits that are fixed (`mask`) with their values (`pattern`). -/
structure Row where
  /-- The encoding space. -/
  space : Space
  /-- The table's "match". -/
  pattern : Nat
  /-- The table's "mask". -/
  mask : Nat
deriving DecidableEq, Repr

/-- The row of spec/opcode_table.json that an instruction belongs to, its match and mask as the table has them. -/
def Instr.row : Instr → Row
  | .cfg _ _ _ => ⟨.command, 0x010000000000000000000000, 0xFFFF00000000000000000000⟩
  | .enc _ => ⟨.command, 0x020000000000000000000000, 0xFFFFFFFF0000000000000000⟩
  | .hdrByte => ⟨.disp, 0x1, 0x7⟩
  | .pk1Shift => ⟨.disp, 0x2, 0xF⟩
  | .pk1Flush => ⟨.disp, 0xA, 0xF⟩
  | .pk24Byte => ⟨.disp, 0x3, 0x7⟩
  | .padByte => ⟨.disp, 0x4, 0x7⟩
  | .hfMagic => ⟨.fidx, 0x00, 0x1F⟩
  | .hfFsize => ⟨.fidx, 0x01, 0x1F⟩
  | .hfRsvd => ⟨.fidx, 0x02, 0x1F⟩
  | .hfDoff => ⟨.fidx, 0x03, 0x1F⟩
  | .hfDibsz => ⟨.fidx, 0x04, 0x1F⟩
  | .hfWidth => ⟨.fidx, 0x05, 0x1F⟩
  | .hfHeight => ⟨.fidx, 0x06, 0x1F⟩
  | .hfPlanes => ⟨.fidx, 0x07, 0x1F⟩
  | .hfBpp => ⟨.fidx, 0x08, 0x1F⟩
  | .hfComp => ⟨.fidx, 0x09, 0x1F⟩
  | .hfIsize => ⟨.fidx, 0x0A, 0x1F⟩
  | .hfXres => ⟨.fidx, 0x0B, 0x1F⟩
  | .hfYres => ⟨.fidx, 0x0C, 0x1F⟩
  | .hfNcol => ⟨.fidx, 0x0D, 0x1F⟩
  | .hfNimp => ⟨.fidx, 0x0E, 0x1F⟩
  | .hfPal0 => ⟨.fidx, 0x0F, 0x1F⟩
  | .hfPal1 => ⟨.fidx, 0x10, 0x1F⟩

/-- The space a code lies in. -/
def Code.space : Code → Space
  | .command _ => .command
  | .disp _ => .disp
  | .fidx _ => .fidx

/-- The bits of a code, as a number. -/
def Code.value : Code → Nat
  | .command w => w.toNat
  | .disp d => d.toNat
  | .fidx f => f.toNat

/-- A code lies in a row's space and agrees with its fixed bits. -/
def Row.accepts (r : Row) (c : Code) : Bool := r.space == c.space && c.value &&& r.mask == r.pattern

/-- The code that a table word of `nbits` bits stands for, where the host reads the table in whole bytes. 96 bits is a
command word, 4 a dispatch vector, 5 a field index. In ONE byte the 4-bit and the 5-bit rows cannot be told apart: the
five values that are a micro-operation's match are read as a dispatch vector, every other value as a field index (log
entry 9), so `HF.FSIZE`, `HF.RSVD`, `HF.DOFF`, `HF.DIBSZ` and `HF.ISIZE` are reached with `nbits = 5` only. -/
def tableCode (nbits w : Nat) : Option Code :=
  match nbits with
  | 96 => some (.command (BitVec.ofNat 96 w))
  | 4 => some (.disp (BitVec.ofNat 4 w))
  | 5 => some (.fidx (BitVec.ofNat 5 w))
  | 8 =>
    match w with
    | 1 => some (.disp 0x1#4)
    | 2 => some (.disp 0x2#4)
    | 3 => some (.disp 0x3#4)
    | 4 => some (.disp 0x4#4)
    | 10 => some (.disp 0xA#4)
    | _ => if w < 32 then some (.fidx (BitVec.ofNat 5 w)) else none
  | _ => none

/-- The instruction the decoder reads from a word of the opcode table (the host's fixed name). -/
def decodeTableWord (nbits w : Nat) : Option Instr :=
  match tableCode nbits w with
  | some c =>
    match decode c with
    | .ok i => some i
    | .error _ => none
  | none => none

end Sys2Proof
end

