-- ==== Sys2Proof/Machine/State.lean ====
section
/-!
DEFINITION. The state of the block (10_state.md R20): its twenty registers, the two memories it reaches, and, as the
model's own fields, what the host does next and how large the platform made the two memories; its faults and refusals;
the state after reset (R48).
-/

namespace Sys2Proof.Machine

/-- The register `PHASE` (R31). Its reserved values 5 to 7 cannot be expressed (R108; log entry 7). -/
inductive Phase where
  /-- 0: no encode in progress, commands are accepted. -/
  | idle
  /-- 1: the header serializer is emitting. -/
  | hdr
  /-- 2: the 1-bit row packer works on row `ROW`. -/
  | pix1
  /-- 3: the 24-bit row packer works on row `ROW`. -/
  | pix24
  /-- 4: the padding writer emits the padding of row `ROW`. -/
  | padw
deriving DecidableEq, Repr

/-- The register `ERR` (R42, R221). Its reserved value 3 cannot be expressed (log entry 7). -/
inductive Err where
  /-- 0: the most recent command passed its check. -/
  | none
  /-- 1: `UnsupportedFormat`. -/
  | unsupportedFormat
  /-- 2: `OutOfBounds`. -/
  | outOfBounds
deriving DecidableEq, Repr

/-- Something the host does (70_reset_and_hazards.md R256, R257; R13). The list of them in `State` is the model's way
to say, as plain data, which agent moves next; log entry 2. -/
inductive HostAction where
  /-- The reset step, allowed at any time (R250). -/
  | reset
  /-- Presents a command word now (R120). -/
  | command (word : CmdWord)
  /-- Reads `STATUS` until `BUSY = 0` (R252 item 5): the sequencer steps meanwhile. -/
  | wait
  /-- Does nothing for one step: the block takes its own step, if one is enabled. -/
  | tick
  /-- Writes one sample of `PIX` (R45, R252 item 3). -/
  | writePix (index : BitVec 64) (sample : Byte)
  /-- Writes one byte of `OUT`, which the host may do between encodes only (R257, log entry 16). -/
  | writeOut (address : Word) (value : Byte)
deriving DecidableEq, Repr

/-- The state of the machine: R20's registers 0 to 19, the memories of R45 and R46, and the model's own fields. -/
structure State where
  /-- `WIDTH` (R21). -/
  width : Word
  /-- `HEIGHT` (R22). -/
  height : Word
  /-- `BPP` (R23). -/
  bpp : BitVec 16
  /-- `RBU` (R24). -/
  rbu : Word
  /-- `PAD` (R25). -/
  pad : BitVec 2
  /-- `PRB` (R26). -/
  prb : Word
  /-- `PHASE` (R31). -/
  phase : Phase
  /-- `CFGV` (R40). -/
  cfgv : Bool
  /-- `DONE` (R41). -/
  done : Bool
  /-- `ERR` (R42). -/
  err : Err
  /-- `OCUR` (R43). -/
  ocur : Word
  /-- `PIXLEN` (R44). -/
  pixlen : BitVec 64
  /-- `FIDX` (R32). -/
  fidx : BitVec 5
  /-- `BIDX` (R33). -/
  bidx : BitVec 2
  /-- `ROW` (R34). -/
  row : Word
  /-- `COL` (R35). -/
  col : Word
  /-- `CH` (R36). -/
  ch : BitVec 2
  /-- `ACC` (R37). -/
  acc : Byte
  /-- `NBITS` (R38). -/
  nbits : BitVec 4
  /-- `PCNT` (R39). -/
  pcnt : BitVec 2
  /-- `PIX` (R45): the samples that have been written, by index, ascending. -/
  pix : List Host.Cell
  /-- `OUT` (R46): the bytes that have been written, by address, ascending. -/
  out : List Host.Cell
  /-- The model's own: how many samples of `PIX` the platform provides (R70, duty H6). No step changes it. -/
  pixSize : Nat
  /-- The model's own: how many bytes of `OUT` the platform provides (R70, duty H6). No step changes it. -/
  outSize : Nat
  /-- The model's own: what the host does next, in order; empty: it does nothing more. -/
  host : List HostAction
deriving DecidableEq, Repr

/-- Why the machine is stuck: the spec gives the access no step. -/
inductive Fault where
  /-- A `PixRead` at an index that is not below `PIXLEN` (R62: "stuck"). Raised by `PK1.SHIFT`, `PK24.BYTE`. Safe. -/
  | pixNotAdmitted
  /-- A `PixRead`, or a host's write to `PIX`, that the platform's memory does not back (U5: "stuck"). Raised by
  `PK1.SHIFT`, `PK24.BYTE` and the host action `writePix`. Safe. -/
  | pixNotBacked
  /-- An `Emit`, or a host's write to `OUT`, that the platform's memory does not back (U5: "stuck"). Raised by
  `HDR.BYTE` and the field emitters, `PK1.FLUSH`, `PK24.BYTE`, `PAD.BYTE` and the host action `writeOut`. Safe. -/
  | outNotBacked
deriving DecidableEq, Repr

/-- Why the model refuses: the spec gives no meaning. Log entry 7 (states no run reaches), log entry 13 (which of several
is named). -/
inductive Refusal where
  /-- An instruction the model gives no meaning yet (exec's refused arms; there is none). Safe. -/
  | notModelled (mnemonic : String)
  /-- A command presented while `PHASE != IDLE` (R120, U3b). Raised by `CFG`, `ENC` and the step. Safe. -/
  | commandWhileBusy
  /-- A command word that stands for no command (R95, U3). Raised by the step. Safe. -/
  | reservedWord (why : DecodeError)
  /-- `CFG` operands outside the contract domain (R7, U1). Raised by `CFG`. Safe. -/
  | outsideDomain
  /-- `ENC` while `CFGV = 0` (R122, U2). Raised by `ENC`. Safe. -/
  | notConfigured
  /-- An `ENC` while `PIX` holds fewer than `pixlen` samples or `OUT` cannot take `FSZ` bytes (R122's precondition, duty
  H6; log entry 4). Raised by `ENC`. Safe. -/
  | memoryTooSmall
  /-- A host's write to `OUT` while `PHASE != IDLE`, when the block alone writes it (R60, R257; log entry 16). Raised by the
  host action `writeOut`. Safe. -/
  | outWriteWhileBusy
  /-- A micro-operation or field emitter in a state that does not select it (R100, R101: it has no step there). Raised
  by the meanings of all of them; the step never raises it in a state a run reaches. Safe. -/
  | notSelected
  /-- `FIDX` holds 17 to 31 (R109, U7). Raised by `HDR.BYTE`. Safe. -/
  | reservedFidx
  /-- `FIDX` selects a palette field while `BPP` is not 1 (R109, U7). Raised by `HF.PAL0`, `HF.PAL1`, `HDR.BYTE`. Safe. -/
  | paletteAbsent
  /-- `BIDX` holds 2 or 3 in a 2-byte field (R109, U7). Raised by `HF.MAGIC`, `HF.PLANES`, `HF.BPP`, `HDR.BYTE`. Safe. -/
  | reservedBidx
  /-- `CH = 3` (R109, U7). Raised by `PK24.BYTE`. Safe. -/
  | reservedCh
  /-- `NBITS` holds 9 to 15 (R109, U7). Raised by `PK1.FLUSH`. Safe. -/
  | reservedNbits
  /-- `PCNT = 3` (R109, U7). Raised by `PAD.BYTE`. Safe. -/
  | reservedPcnt
  /-- `OCUR + 1` does not fit 32 bits (R204: no arithmetic is defined there). Raised by every emitting step. Safe. -/
  | ocurOverflow
  /-- `COL + 1` does not fit 32 bits (R204). Raised by `PK24.BYTE`. Safe. -/
  | colOverflow
  /-- `ROW + 1` does not fit 32 bits (R204). Raised by the steps that end in `NextRow`. Safe. -/
  | rowOverflow
deriving DecidableEq, Repr

/-- What a meaning answers. -/
abbrev Result := Host.Outcome State Fault Refusal

/-- The state after reset (R48, R250): every register 0; nothing has been written to either memory, whose contents are
unspecified (log entry 1); both memories back their whole address space (log entry 3); the host has nothing to do
(log entries 2 and 10). -/
def State.reset : State where
  width := 0
  height := 0
  bpp := 0
  rbu := 0
  pad := 0
  prb := 0
  phase := .idle
  cfgv := false
  done := false
  err := .none
  ocur := 0
  pixlen := 0
  fidx := 0
  bidx := 0
  row := 0
  col := 0
  ch := 0
  acc := 0
  nbits := 0
  pcnt := 0
  pix := []
  out := []
  pixSize := sampleSpan
  outSize := wordSpan
  host := []

end Sys2Proof.Machine
end

