-- ==== Sys2Proof/Machine/Flags.lean ====
section
/-!
DEFINITION. The status fields and what the host sees of them: the codes of `PHASE` and `ERR` (R31, R221), `BUSY` (R28),
the word `STATUS` (R27), the flush condition and the dispatch vector `DISP` (R99).
-/

namespace Sys2Proof.Machine

/-- The three bits of `PHASE` (R31). -/
def Phase.code : Phase → BitVec 3
  | .idle => 0
  | .hdr => 1
  | .pix1 => 2
  | .pix24 => 3
  | .padw => 4

/-- The phase a three-bit value stands for; 5 to 7 are reserved (R108). -/
def Phase.ofCode (c : BitVec 3) : Option Phase :=
  match c.toNat with
  | 0 => some .idle
  | 1 => some .hdr
  | 2 => some .pix1
  | 3 => some .pix24
  | 4 => some .padw
  | _ => none

/-- The two bits of `ERR` (R221). -/
def Err.code : Err → BitVec 2
  | .none => 0
  | .unsupportedFormat => 1
  | .outOfBounds => 2

/-- `BUSY`: `PHASE != IDLE` (R28). -/
def State.busy (s : State) : Bool := s.phase != .idle

/-- The word `STATUS` the host reads, without side effect (R27): `PHASE` in 2..0, `BUSY` in 3, `CFGV` in 4, `DONE` in
5, `ERR` in 7..6, and 31..8 read as 0. A read is no step (log entry 6). -/
def State.status (s : State) : Word :=
  (0#24 ++ s.err.code ++ BitVec.ofBool s.done ++ BitVec.ofBool s.cfgv ++ BitVec.ofBool s.busy ++ s.phase.code :
    BitVec (24 + 2 + 1 + 1 + 1 + 3))

/-- The flush condition `F`: `NBITS = 8` or `COL = WIDTH` (R99). -/
def State.flush (s : State) : Bool := s.nbits == 8#4 || s.col == s.width

/-- The dispatch vector `DISP[3:0] = {F, PHASE[2:0]}` (R99). -/
def State.disp (s : State) : BitVec 4 := (BitVec.ofBool s.flush ++ s.phase.code : BitVec (1 + 3))

end Sys2Proof.Machine
end

