-- ==== Sys2Proof/Machine/Stride.lean ====
section
/-!
DEFINITION. The calculator of the stride and alignment engine (44_stride_alignment.md R190 to R196) and the buffer
length an encode needs (40_commands.md R123): total functions on natural numbers. R190 calls them combinational.
-/

namespace Sys2Proof.Machine

/-- `ceil(a / m)` for `m > 0` (R8). -/
def ceilDiv (a m : Nat) : Nat := (a + m - 1) / m

/-- `RowBytesUnpadded(w, b) = ceil(w * b / 8)` (R191). -/
def rowBytesUnpadded (w b : Nat) : Nat := ceilDiv (w * b) 8

/-- `Padding(n) = (4 - (n mod 4)) mod 4` (R192). -/
def padding (n : Nat) : Nat := (4 - n % 4) % 4

/-- `PaddedRowBytes(w, b)`, the stride (R193). -/
def paddedRowBytes (w b : Nat) : Nat := rowBytesUnpadded w b + padding (rowBytesUnpadded w b)

/-- `HeaderSize(b)`: 62 at 1 bpp, else 54 (R194; the source's own "else" makes it total). -/
def headerSize (b : Nat) : Nat := if b = 1 then 62 else 54

/-- `ImageSize(w, h, b) = h * PaddedRowBytes(w, b)` (R195). -/
def imageSize (w h b : Nat) : Nat := h * paddedRowBytes w b

/-- `FileSize(w, h, b) = HeaderSize(b) + h * PaddedRowBytes(w, b)` (R196). -/
def fileSize (w h b : Nat) : Nat := headerSize b + h * paddedRowBytes w b

/-- `Required(w, h, b)`, the number of samples an encode needs: `w * h` at 1 bpp, `3 * w * h` at 24 bpp (R123). The
spec defines it for these two depths only; the model answers the second for every depth but 1. DEDUCED, log entry 8:
no state a run reaches has another depth in `BPP` while `CFGV = 1`. -/
def required (w h b : Nat) : Nat := if b = 1 then w * h else 3 * w * h

/-- `StepCount(w, h, b)`, the number of sequencer steps of a successful encode (R203). -/
def stepCount (w h b : Nat) : Nat :=
  if b = 1 then headerSize 1 + h * (w + paddedRowBytes w 1) else headerSize b + h * paddedRowBytes w b

/-- `bpp` is one of the supported depths 1 and 24 (R6, R107). -/
def depthSupported (b : Nat) : Bool := b == 1 || b == 24

/-- The contract domain of the operands of `CFG` (R7): `1 <= w, h <= 2^31 - 1` and, for a supported depth,
`FileSize(w, h, b) <= 2^32 - 1`. -/
def inDomain (w h b : Nat) : Bool :=
  decide (1 ≤ w) && decide (w ≤ 2 ^ 31 - 1) && decide (1 ≤ h) && decide (h ≤ 2 ^ 31 - 1) &&
    (!depthSupported b || decide (fileSize w h b ≤ 2 ^ 32 - 1))

end Sys2Proof.Machine
end

