-- ==== Sys2Proof/Machine/Operands.lean ====
section
/-!
DEFINITION. How the steps form the values they use: byte lanes (R10), the bit of a sample (R171), sample indices (R61,
R126) and the choice of the pixel phase.
-/

namespace Sys2Proof.Machine

/-- `Lane(v, k) = (v >> 8k) & 0xFF`, the endian converter (R10, R141), of any value (log entry 14). -/
def lane (v k : Nat) : Byte := BitVec.ofNat 8 ((v >>> (8 * k)) &&& 0xFF)

/-- `LE(n, v)`: the `n` bytes of `v`, the least significant first (R10). -/
def littleEndian (n v : Nat) : List Byte := (List.range n).map (lane v)

/-- `Bit1(s)`: 1 exactly when the sample is `0xFF` (R171). -/
def bit1 (s : Byte) : BitVec 1 := if s = 0xFF#8 then 1#1 else 0#1

/-- `SrcRow(r) = r`: the file is top-down (R126, decision D1). -/
def srcRow (r : Nat) : Nat := r

/-- The pixel number `SrcRow(ROW) * WIDTH + COL` (R61, R173, R181). -/
def pixelNumber (s : State) : Nat := srcRow s.row.toNat * s.width.toNat + s.col.toNat

/-- The index `PK24.BYTE` reads: `3p + (2 - CH)`, so B, G, R for `CH` = 0, 1, 2 (R181). -/
def sampleIndex24 (s : State) : Nat := 3 * pixelNumber s + (2 - s.ch.toNat)

/-- The phase that packs a row: `BPP = 1 ? PIX1 : PIX24` (R141, R200). -/
def pixelPhase (bpp : BitVec 16) : Phase := if bpp = 1#16 then .pix1 else .pix24

/-- `LastField(b)`: 16 at 1 bpp, else 14 (R159; for other depths, which no run reaches, log entry 8). -/
def lastField (b : Nat) : Nat := if b = 1 then 16 else 14

/-- `Size(k)`: the fields 0, 7 and 8 have two bytes, every other four (R101). -/
def fieldSize (k : Nat) : Nat := if k = 0 ∨ k = 7 ∨ k = 8 then 2 else 4

/-- `Offset(k)`, the third column of R101. -/
def fieldOffset : Nat → Nat
  | 0 => 0
  | k + 1 => fieldOffset k + fieldSize k

end Sys2Proof.Machine
end

