-- ==== Sys2Proof/Machine/Ops.lean ====
section
/-!
DEFINITION. The operations the meanings are made of: the two memories, `PixRead` and `Emit` (20_memory.md R62, R64), the
entry into an error (60_exceptions.md R224, R225), the row sequencing `EndRowData` and `NextRow`
(44_stride_alignment.md R198, R200) and the reset of the registers (R250).
-/

namespace Sys2Proof.Machine

/-- Goes on with `f` if a result is a next state. -/
def andThen (r : Result) (f : State → Result) : Result :=
  match r with
  | .next s => f s
  | .fault e => .fault e
  | .refused e => .refused e

/-- What a memory holds at an address, if anything was written there. -/
def memRead : List Host.Cell → Nat → Option Byte
  | [], _ => none
  | (b, v) :: rest, a => if a = b then some v else memRead rest a

/-- Writes one byte, keeping the addresses ascending. -/
def memWrite : List Host.Cell → Nat → Byte → List Host.Cell
  | [], a, v => [(a, v)]
  | (b, w) :: rest, a, v =>
    if a < b then (a, v) :: (b, w) :: rest
    else if a = b then (a, v) :: rest
    else (b, w) :: memWrite rest a v

/-- Every address listed is at least `lo` and below `hi`, and they strictly rise. -/
def memRising (lo hi : Nat) : List Host.Cell → Bool
  | [] => true
  | (a, _) :: rest => decide (lo ≤ a) && decide (a < hi) && memRising (a + 1) hi rest

/-- The canonical form of a memory of `size` cells: strictly rising addresses, all of them backed. An address that is
not listed holds no value that was written, so no listed entry can repeat what an unlisted address reads as. -/
abbrev Memory.wf (size : Nat) (m : List Host.Cell) : Bool := memRising 0 size m

/-- Sample `i` of `PIX`; a free value where nothing has been written (R48, log entry 1). -/
def State.sample (s : State) (i : Nat) : Byte := (memRead s.pix i).getD (Config.powerUpSample i)

/-- Byte `a` of `OUT`; a free value where nothing has been written (R48, log entry 1). -/
def State.outByte (s : State) (a : Nat) : Byte := (memRead s.out a).getD (Config.powerUpOutByte a)

/-- `OUT[0 .. OCUR-1]`, which the host reads as the EncodedImage once `DONE = 1` (R41, R97). -/
def State.result (s : State) : List Byte := (List.range s.ocur.toNat).map s.outByte

/-- `PixRead(i)` (R62): admitted only for `i < PIXLEN`, and only where the platform backs it (U5); otherwise the machine
is stuck. A read changes nothing. -/
def pixRead (i : Nat) (s : State) (use : Byte → Result) : Result :=
  if i < s.pixlen.toNat then
    if i < s.pixSize then use (s.sample i) else .fault .pixNotBacked
  else .fault .pixNotAdmitted

/-- `Emit(b)` (R64): writes `OUT[OCUR]`, then `OCUR <- OCUR + 1`. Stuck where the platform does not back the byte (U5).
Where `OCUR + 1` does not fit the register the spec defines no arithmetic (R204), and the model refuses. -/
def emit (b : Byte) (s : State) : Result :=
  if s.ocur.toNat < s.outSize then
    if s.ocur.toNat + 1 < wordSpan then
      .next { s with out := memWrite s.out s.ocur.toNat b, ocur := BitVec.ofNat 32 (s.ocur.toNat + 1) }
    else .refused .ocurOverflow
  else .fault .outNotBacked

/-- The two error kinds (R220). -/
inductive ErrorKind where
  /-- Raised by `CFG` (R222). -/
  | unsupportedFormat
  /-- Raised by `ENC` (R223). -/
  | outOfBounds
deriving DecidableEq, Repr

/-- Raising an error (R224, R225): the code in `ERR`; `UnsupportedFormat` also clears `CFGV`. Nothing is saved, no
control is transferred, and there is no return from it (R229). -/
def raise (k : ErrorKind) (s : State) : State :=
  match k with
  | .unsupportedFormat => { s with err := .unsupportedFormat, cfgv := false }
  | .outOfBounds => { s with err := .outOfBounds }

/-- `NextRow` (R200): on to the next row, or the encode is complete. -/
def nextRow (s : State) : Result :=
  if s.row.toNat + 1 < wordSpan then
    if s.row.toNat + 1 = s.height.toNat then
      .next { s with col := 0, row := BitVec.ofNat 32 (s.row.toNat + 1), phase := .idle, done := true }
    else
      .next { s with col := 0, row := BitVec.ofNat 32 (s.row.toNat + 1), phase := pixelPhase s.bpp }
  else .refused .rowOverflow

/-- `EndRowData` (R198): to the padding writer, or to `NextRow` where the row needs no padding. -/
def endRowData (s : State) : Result :=
  if 0 < s.pad.toNat then .next { s with phase := .padw, pcnt := 0 } else nextRow s

/-- The reset step (R250): every register to its reset value; neither memory is touched, and the model's own fields
stay. -/
def resetRegisters (s : State) : State :=
  { State.reset with pix := s.pix, out := s.out, pixSize := s.pixSize, outSize := s.outSize, host := s.host }

end Sys2Proof.Machine
end

