-- ==== Sys2Proof/Machine/Command.lean ====
section
/-!
DEFINITION. The host commands `CFG` and `ENC` (40_commands.md R120 to R123). A duty the host breaks is refused before
any error check (R228).
-/

namespace Sys2Proof.Machine

/-- The configuration registers a successful `CFG` writes, with `CFGV` and `ERR` (R121). -/
def configure (width height : Word) (bpp : BitVec 16) (s : State) : State :=
  { s with
    width := width, height := height, bpp := bpp
    rbu := BitVec.ofNat 32 (rowBytesUnpadded width.toNat bpp.toNat)
    pad := BitVec.ofNat 2 (padding (rowBytesUnpadded width.toNat bpp.toNat))
    prb := BitVec.ofNat 32 (paddedRowBytes width.toNat bpp.toNat)
    cfgv := true, err := .none }

/-- `CFG width, height, bpp` (R121; errors R222, R224; duties H1 and H4 of R256). -/
def execCfg (width height : Word) (bpp : BitVec 16) (s : State) : Result :=
  if s.phase = .idle then
    if inDomain width.toNat height.toNat bpp.toNat then
      if depthSupported bpp.toNat then .next (configure width height bpp s)
      else .next (raise .unsupportedFormat s)
    else .refused .outsideDomain
  else .refused .commandWhileBusy

/-- `Required(WIDTH, HEIGHT, BPP)` (R123). -/
def State.requiredSamples (s : State) : Nat := required s.width.toNat s.height.toNat s.bpp.toNat

/-- `ImageSize = HEIGHT * PRB`, from the registers (R195). -/
def State.imageBytes (s : State) : Nat := s.height.toNat * s.prb.toNat

/-- `FileSize = HeaderSize(BPP) + HEIGHT * PRB`, from the registers (R196). -/
def State.fileBytes (s : State) : Nat := headerSize s.bpp.toNat + s.imageBytes

/-- What an accepted `ENC` writes beside `DONE` and `OCUR` (R122). -/
def startEncode (pixlen : BitVec 64) (s : State) : State :=
  { s with
    err := .none, pixlen := pixlen, fidx := 0, bidx := 0, row := 0, col := 0, ch := 0, acc := 0, nbits := 0, pcnt := 0
    phase := .hdr }

/-- `ENC pixlen` (R122; errors R223, R225; duties H1, H2 and H6 of R256). All three duties come before the length check,
the sizes of the memories among them (R122, R228; log entry 4). -/
def execEnc (pixlen : BitVec 64) (s : State) : Result :=
  if s.phase = .idle then
    if s.cfgv then
      if pixlen.toNat ≤ s.pixSize ∧ s.fileBytes ≤ s.outSize then
        if pixlen.toNat < s.requiredSamples then .next (raise .outOfBounds { s with done := false, ocur := 0 })
        else .next (startEncode pixlen { s with done := false, ocur := 0 })
      else .refused .memoryTooSmall
    else .refused .notConfigured
  else .refused .commandWhileBusy

end Sys2Proof.Machine
end

