-- ==== Sys2Proof/Machine/Header.lean ====
section
/-!
DEFINITION. The header serializer (41_header_serializer.md): `HDR.BYTE` (R141) and the seventeen field emitters (R142 to
R158). `HDR.BYTE` is the step; the emitter that `FIDX` selects gives it its value
(log entry 12).
-/

namespace Sys2Proof.Machine

/-- The tail of `HDR.BYTE` after the byte is emitted (R141): the next lane, the next field, or the pixel phase. -/
def advanceHeader (size : Nat) (s : State) : State :=
  if s.bidx.toNat + 1 < size then { s with bidx := BitVec.ofNat 2 (s.bidx.toNat + 1) }
  else if s.fidx.toNat = lastField s.bpp.toNat then { s with bidx := 0, phase := pixelPhase s.bpp }
  else { s with bidx := 0, fidx := BitVec.ofNat 5 (s.fidx.toNat + 1) }

/-- One step of the serializer with field `k` of value `v` (R141): emits lane `BIDX` of it and advances. The field is
selected by `PHASE = HDR` and `FIDX = k` (R101); a lane the field has not is reserved (R109). R141 is for a value that fits
the field. That of one that does not (a file or image size of `2^32` or more, `HEIGHT = 0`: outside the contract domain,
where R204 and N6 leave it open) the low lanes are emitted is the model's choice (DESIGN CHOICE, unsafe there, log entry
14). -/
def emitField (k v : Nat) (s : State) : Result :=
  if s.phase = .hdr ∧ s.fidx.toNat = k then
    if s.bidx.toNat < fieldSize k then
      andThen (emit (lane v s.bidx.toNat) s) fun t => .next (advanceHeader (fieldSize k) t)
    else .refused .reservedBidx
  else .refused .notSelected

/-- A palette field is there at 1 bpp only (R157, R158, R159). Where the depth is not 1 and the state does not select the
field either, the spec names neither refusal; that the depth is asked first is the model's choice (DESIGN CHOICE, safe, log
entry 7). Under `HDR.BYTE` the field is selected, so only the depth is left to ask. -/
def emitPalette (k v : Nat) (s : State) : Result :=
  if s.bpp = 1#16 then emitField k v s else .refused .paletteAbsent

/-- `HF.MAGIC`: "BM", `0x4D42` (R142). -/
def execHfMagic (s : State) : Result := emitField 0 0x4D42 s

/-- `HF.FSIZE`: the file size (R143). -/
def execHfFsize (s : State) : Result := emitField 1 s.fileBytes s

/-- `HF.RSVD`: 0 (R144). -/
def execHfRsvd (s : State) : Result := emitField 2 0 s

/-- `HF.DOFF`: the pixel data offset (R145). -/
def execHfDoff (s : State) : Result := emitField 3 (headerSize s.bpp.toNat) s

/-- `HF.DIBSZ`: 40 (R146). -/
def execHfDibsz (s : State) : Result := emitField 4 40 s

/-- `HF.WIDTH`: `WIDTH` (R147). -/
def execHfWidth (s : State) : Result := emitField 5 s.width.toNat s

/-- `HF.HEIGHT`: `-HEIGHT` in two's complement, `2^32 - HEIGHT` (R148, R11; top-down, decision D1). -/
def execHfHeight (s : State) : Result := emitField 6 (wordSpan - s.height.toNat) s

/-- `HF.PLANES`: 1 (R149). -/
def execHfPlanes (s : State) : Result := emitField 7 1 s

/-- `HF.BPP`: `BPP` (R150). -/
def execHfBpp (s : State) : Result := emitField 8 s.bpp.toNat s

/-- `HF.COMP`: 0 (R151). -/
def execHfComp (s : State) : Result := emitField 9 0 s

/-- `HF.ISIZE`: the image size (R152). -/
def execHfIsize (s : State) : Result := emitField 10 s.imageBytes s

/-- `HF.XRES`: 0 (R153). -/
def execHfXres (s : State) : Result := emitField 11 0 s

/-- `HF.YRES`: 0 (R154). -/
def execHfYres (s : State) : Result := emitField 12 0 s

/-- `HF.NCOL`: 2 at 1 bpp, else 0 (R155). -/
def execHfNcol (s : State) : Result := emitField 13 (if s.bpp = 1#16 then 2 else 0) s

/-- `HF.NIMP`: 2 at 1 bpp, else 0 (R156). -/
def execHfNimp (s : State) : Result := emitField 14 (if s.bpp = 1#16 then 2 else 0) s

/-- `HF.PAL0`: `0x00000000`, black, at 1 bpp only (R157). -/
def execHfPal0 (s : State) : Result := emitPalette 15 0x00000000 s

/-- `HF.PAL1`: `0x00FFFFFF`, white, at 1 bpp only (R158). -/
def execHfPal1 (s : State) : Result := emitPalette 16 0x00FFFFFF s

/-- `HDR.BYTE` (R141): the step of the field emitter that `FIDX` selects (R101). -/
def execHdrByte (s : State) : Result :=
  if s.phase = .hdr then
    match s.fidx.toNat with
    | 0 => execHfMagic s
    | 1 => execHfFsize s
    | 2 => execHfRsvd s
    | 3 => execHfDoff s
    | 4 => execHfDibsz s
    | 5 => execHfWidth s
    | 6 => execHfHeight s
    | 7 => execHfPlanes s
    | 8 => execHfBpp s
    | 9 => execHfComp s
    | 10 => execHfIsize s
    | 11 => execHfXres s
    | 12 => execHfYres s
    | 13 => execHfNcol s
    | 14 => execHfNimp s
    | 15 => execHfPal0 s
    | 16 => execHfPal1 s
    | _ => .refused .reservedFidx
  else .refused .notSelected

end Sys2Proof.Machine
end

