-- ==== Sys2Proof/Machine/Pack1.lean ====
section
/-!
DEFINITION. The 1-bit row packer (42_row_packer_1bpp.md): `PK1.SHIFT` (R173) and `PK1.FLUSH` (R174).
-/

namespace Sys2Proof.Machine

/-- Shifts the bit of a sample into the accumulator (R173). -/
def shiftIn (v : Byte) (s : State) : State :=
  { s with
    acc := (s.acc <<< 1) ||| (bit1 v).setWidth 8
    nbits := BitVec.ofNat 4 (s.nbits.toNat + 1)
    col := BitVec.ofNat 32 (s.col.toNat + 1) }

/-- `PK1.SHIFT` (R173): reads one sample and shifts its bit into `ACC`. -/
def execPk1Shift (s : State) : Result :=
  if s.phase = .pix1 ∧ s.nbits.toNat < 8 ∧ s.col.toNat < s.width.toNat then
    pixRead (pixelNumber s) s fun v => .next (shiftIn v s)
  else .refused .notSelected

/-- The byte a flush emits, left-justified: `(ACC << (8 - NBITS)) & 0xFF` (R174). -/
def flushByte (s : State) : Byte := s.acc <<< (8 - s.nbits.toNat)

/-- `PK1.FLUSH` (R174): emits the accumulator as one data byte and clears it; at the end of the row, `EndRowData`. -/
def execPk1Flush (s : State) : Result :=
  if s.phase = .pix1 ∧ s.flush then
    if s.nbits.toNat ≤ 8 then
      andThen (emit (flushByte s) s) fun t =>
        if s.col = s.width then endRowData { t with acc := 0, nbits := 0 } else .next { t with acc := 0, nbits := 0 }
    else .refused .reservedNbits
  else .refused .notSelected

end Sys2Proof.Machine
end

