-- ==== Sys2Proof/Machine/Pack24.lean ====
section
/-!
DEFINITION. The 24-bit row packer (43_row_packer_24bpp.md): `PK24.BYTE` (R181).
-/

namespace Sys2Proof.Machine

/-- The tail of `PK24.BYTE` after the sample is emitted (R181): the next channel, or the next pixel, or the end of the
row. -/
def advancePixel (s : State) : Result :=
  if s.ch.toNat < 2 then .next { s with ch := BitVec.ofNat 2 (s.ch.toNat + 1) }
  else if s.col.toNat + 1 < wordSpan then
    if s.col.toNat + 1 = s.width.toNat then
      endRowData { s with ch := 0, col := BitVec.ofNat 32 (s.col.toNat + 1) }
    else .next { s with ch := 0, col := BitVec.ofNat 32 (s.col.toNat + 1) }
  else .refused .colOverflow

/-- `PK24.BYTE` (R181): reads one sample and emits it unchanged (R183), in the order B, G, R. -/
def execPk24Byte (s : State) : Result :=
  if s.phase = .pix24 then
    if s.ch.toNat ≤ 2 then
      pixRead (sampleIndex24 s) s fun v => andThen (emit v s) advancePixel
    else .refused .reservedCh
  else .refused .notSelected

end Sys2Proof.Machine
end

