-- ==== Sys2Proof/Machine/Padding.lean ====
section
/-!
DEFINITION. The padding writer (44_stride_alignment.md): `PAD.BYTE` (R199).
-/

namespace Sys2Proof.Machine

/-- `PAD.BYTE` (R199): emits one zero byte of row padding; after the last one, `NextRow`. -/
def execPadByte (s : State) : Result :=
  if s.phase = .padw then
    if s.pcnt.toNat ≤ 2 then
      andThen (emit 0x00#8 s) fun t =>
        if s.pcnt.toNat + 1 < s.pad.toNat then .next { t with pcnt := BitVec.ofNat 2 (s.pcnt.toNat + 1) }
        else nextRow { t with pcnt := 0 }
    else .refused .reservedPcnt
  else .refused .notSelected

end Sys2Proof.Machine
end

