-- ==== Sys2Proof/Machine/Dispatch.lean ====
section
/-!
DEFINITION. The meaning of every instruction: one arm per constructor of `Instr`, each a direct call.
-/

namespace Sys2Proof.Machine

def exec (i : Instr) (s : State) : Host.Outcome State Fault Refusal :=
  match i with
  | .cfg width height bpp => Sys2Proof.Machine.execCfg width height bpp s
  | .enc pixlen => Sys2Proof.Machine.execEnc pixlen s
  | .hdrByte => Sys2Proof.Machine.execHdrByte s
  | .pk1Shift => Sys2Proof.Machine.execPk1Shift s
  | .pk1Flush => Sys2Proof.Machine.execPk1Flush s
  | .pk24Byte => Sys2Proof.Machine.execPk24Byte s
  | .padByte => Sys2Proof.Machine.execPadByte s
  | .hfMagic => Sys2Proof.Machine.execHfMagic s
  | .hfFsize => Sys2Proof.Machine.execHfFsize s
  | .hfRsvd => Sys2Proof.Machine.execHfRsvd s
  | .hfDoff => Sys2Proof.Machine.execHfDoff s
  | .hfDibsz => Sys2Proof.Machine.execHfDibsz s
  | .hfWidth => Sys2Proof.Machine.execHfWidth s
  | .hfHeight => Sys2Proof.Machine.execHfHeight s
  | .hfPlanes => Sys2Proof.Machine.execHfPlanes s
  | .hfBpp => Sys2Proof.Machine.execHfBpp s
  | .hfComp => Sys2Proof.Machine.execHfComp s
  | .hfIsize => Sys2Proof.Machine.execHfIsize s
  | .hfXres => Sys2Proof.Machine.execHfXres s
  | .hfYres => Sys2Proof.Machine.execHfYres s
  | .hfNcol => Sys2Proof.Machine.execHfNcol s
  | .hfNimp => Sys2Proof.Machine.execHfNimp s
  | .hfPal0 => Sys2Proof.Machine.execHfPal0 s
  | .hfPal1 => Sys2Proof.Machine.execHfPal1 s

end Sys2Proof.Machine
end

