-- ==== Sys2Proof/Machine/Fetch.lean ====
section
/-!
DEFINITION. What the next step is (R13): a host action at the head of the host's list, or the sequencer's own step.
-/

namespace Sys2Proof.Machine

/-- What the step has to do. -/
inductive Fetched where
  /-- Run this instruction in this state: a command step or a sequencer step. -/
  | run (i : Instr) (s : State)
  /-- The step runs no instruction; this is the next state. -/
  | settle (s : State)
  /-- The step is stuck. -/
  | stuck (why : Fault)
  /-- The step is refused. -/
  | refuse (why : Refusal)
deriving DecidableEq, Repr

/-- The sequencer's own step (R100): the micro-operation `DISP` selects. While `PHASE = IDLE` none is enabled and the
block does nothing (R250: "the block does nothing until a command is presented"). -/
def fetchSequencer (s : State) : Fetched :=
  if s.phase = .idle then .settle s
  else
    match decodeDisp s.disp with
    | .ok i => .run i s
    | .error why => .refuse (.reservedWord why)

/-- A command word the host presents (R120): while `BUSY` no command step exists. -/
def fetchCommand (word : CmdWord) (s : State) : Fetched :=
  if s.phase = .idle then
    match decodeCommand word with
    | .ok i => .run i s
    | .error why => .refuse (.reservedWord why)
  else .refuse .commandWhileBusy

/-- The host writes a sample of `PIX` (R45). Its duty H5 not to do so while `BUSY` is not checked: each `PixRead` returns
the sample as it is at its step (U4; log entry 5). -/
def hostWritePix (index : BitVec 64) (v : Byte) (s : State) : Fetched :=
  if index.toNat < s.pixSize then .settle { s with pix := memWrite s.pix index.toNat v } else .stuck .pixNotBacked

/-- The host writes a byte of `OUT`, between encodes only: from the accepted `ENC` until `BUSY = 0` the block alone writes
it (R60, R257), and the host has no such move (log entry 16). -/
def hostWriteOut (address : Word) (v : Byte) (s : State) : Fetched :=
  if address.toNat < s.outSize then
    if s.phase = .idle then .settle { s with out := memWrite s.out address.toNat v } else .refuse .outWriteWhileBusy
  else .stuck .outNotBacked

/-- The next step: the host's next action if it has one, else the sequencer's. An action that is done leaves the
list; a host that waits for `BUSY = 0` stays while the sequencer steps. -/
def fetch (s : State) : Fetched :=
  match s.host with
  | [] => fetchSequencer s
  | .reset :: rest => .settle (resetRegisters { s with host := rest })
  | .command word :: rest => fetchCommand word { s with host := rest }
  | .wait :: rest => if s.phase = .idle then .settle { s with host := rest } else fetchSequencer s
  | .tick :: rest => fetchSequencer { s with host := rest }
  | .writePix index v :: rest => hostWritePix index v { s with host := rest }
  | .writeOut address v :: rest => hostWriteOut address v { s with host := rest }

/-- The registers under which the dispatch vector `d` is the sequencer's: `PHASE` as its low bits say, and for the two
`PIX1` rows `NBITS`, `COL` and `WIDTH` such that `F` is its high bit. `PIXLEN = 3` admits the one sample it reads. -/
def placeDisp (d : BitVec 4) (s : State) : State :=
  match d.toNat with
  | 1 => { s with phase := .hdr, fidx := 0, bidx := 0 }
  | 2 => { s with phase := .pix1, nbits := 0, row := 0, col := 0, width := 1, pixlen := 3 }
  | 10 => { s with phase := .pix1, nbits := 8 }
  | 3 => { s with phase := .pix24, ch := 0, row := 0, col := 0, pixlen := 3 }
  | 4 => { s with phase := .padw, pcnt := 0 }
  | _ => s

/-- The registers under which `HDR.BYTE` emits the first byte of field `f`; the palette fields are there only at 1 bpp. -/
def placeFidx (f : BitVec 5) (s : State) : State :=
  if 15 ≤ f.toNat then { s with phase := .hdr, fidx := f, bidx := 0, bpp := 1 }
  else { s with phase := .hdr, fidx := f, bidx := 0 }

/-- Places a code so that the very next step runs it: a command as the host's next action of an idle block, a
micro-operation or field by the registers that select it, the host standing by for that one step. -/
def placeCode (c : Code) (s : State) : State :=
  match c with
  | .command word => { s with phase := .idle, host := .command word :: s.host }
  | .disp d => placeDisp d { s with host := .tick :: s.host }
  | .fidx f => placeFidx f { s with host := .tick :: s.host }

end Sys2Proof.Machine
end

