-- ==== Sys2Proof/Machine/Step.lean ====
section
/-!
DEFINITION. One step of the machine (R13): fetch, then run.
-/

namespace Sys2Proof.Machine

/-- One atomic transition (R13); when it happens is left out (R262, log entry 11). -/
def step (s : State) : Host.Outcome State Fault Refusal :=
  match fetch s with
  | .run i t => exec i t
  | .settle t => .next t
  | .stuck why => .fault why
  | .refuse why => .refused why

/-- The state `s` with a word of the opcode table placed where the very next step takes its instruction from (the host's
fixed name; log entry 9). A word that `tableCode` gives no code leaves the state as it is. -/
def State.withFetchWord (s : State) (nbits w : Nat) : State :=
  match tableCode nbits w with
  | some c => placeCode c s
  | none => s

end Sys2Proof.Machine
end

