-- ==== Sys2Proof/Machine/Contract.lean ====
section
/-!
DEFINITION. What a successful encode produces, with no reference to steps (40_commands.md R124 to R126;
41_header_serializer.md R140; 42_row_packer_1bpp.md R170; 43_row_packer_24bpp.md R180): pure functions of the operands
`w`, `h`, `b` and of the samples, given as a function of the index. The machine does not use them; claims do.
-/

namespace Sys2Proof.Machine

/-- `Value(k)`, the value of header field `k` (R142 to R158). -/
def headerValue (w h b k : Nat) : Nat :=
  match k with
  | 0 => 0x4D42
  | 1 => fileSize w h b
  | 3 => headerSize b
  | 4 => 40
  | 5 => w
  | 6 => 2 ^ 32 - h
  | 7 => 1
  | 8 => b
  | 10 => imageSize w h b
  | 13 => if b = 1 then 2 else 0
  | 14 => if b = 1 then 2 else 0
  | 16 => 0x00FFFFFF
  | _ => 0

/-- `Header(w, h, b)` (R140); outside the contract domain a value that does not fit its field gives its low lanes (log entry
14). -/
def headerBytes (w h b : Nat) : List Byte :=
  (List.range (lastField b + 1)).flatMap fun k => littleEndian (fieldSize k) (headerValue w h b k)

/-- Byte `B(j)` of a 1-bit row (R170): column `8j + k` in bit `7 - k`, 0 where the column does not exist. -/
def row1Byte (w : Nat) (pix : Nat → Byte) (q j : Nat) : Byte :=
  BitVec.ofNat 8 (((List.range 8).map fun k =>
    if 8 * j + k < w then (bit1 (pix (q * w + 8 * j + k))).toNat * 2 ^ (7 - k) else 0).sum)

/-- `Row1Bytes(w, pix, q)` (R170). -/
def row1Bytes (w : Nat) (pix : Nat → Byte) (q : Nat) : List Byte :=
  (List.range (rowBytesUnpadded w 1)).map (row1Byte w pix q)

/-- `Row24Bytes(w, pix, q)` (R180): B, G, R of every pixel of the row. -/
def row24Bytes (w : Nat) (pix : Nat → Byte) (q : Nat) : List Byte :=
  (List.range w).flatMap fun c => [pix (3 * (q * w + c) + 2), pix (3 * (q * w + c) + 1), pix (3 * (q * w + c))]

/-- `Row(r)`: the data bytes of input row `SrcRow(r)`, then the padding (R125, R201). R125 defines it at 1 and at 24 bpp only;
that any other depth is packed as 24 bpp is the model's choice (DESIGN CHOICE, safe, log entry 15). -/
def rowBytes (w b : Nat) (pix : Nat → Byte) (r : Nat) : List Byte :=
  (if b = 1 then row1Bytes w pix (srcRow r) else row24Bytes w pix (srcRow r)) ++
    List.replicate (padding (rowBytesUnpadded w b)) 0x00#8

/-- `PixelData(w, h, b, pix)` (R125). -/
def pixelData (w h b : Nat) (pix : Nat → Byte) : List Byte := (List.range h).flatMap (rowBytes w b pix)

/-- `Encode(w, h, b, pix)` (R124); of use at 1 and 24 bpp only (log entries 8 and 15). -/
def encodeImage (w h b : Nat) (pix : Nat → Byte) : List Byte := headerBytes w h b ++ pixelData w h b pix

end Sys2Proof.Machine
end

