-- ==== Sys2Proof/Safety.lean ====
section
/-!
DEFINITION. The terms the claims use: which registers and bytes a step leaves alone (frames), the ranges that always
hold (10_state.md R49), and how far the bytes in `OUT` are those of the contract (40_commands.md R124, R127).
-/

namespace Sys2Proof.Machine

/-- The six configuration and derived registers are unchanged (R21 to R26). -/
def keepsConfig (s t : State) : Prop :=
  t.width = s.width ∧ t.height = s.height ∧ t.bpp = s.bpp ∧ t.rbu = s.rbu ∧ t.pad = s.pad ∧ t.prb = s.prb

/-- `CFGV`, `ERR` and `PIXLEN` are unchanged, as under every sequencer step (R40, R42, R44). -/
def keepsCommandRegs (s t : State) : Prop := t.cfgv = s.cfgv ∧ t.err = s.err ∧ t.pixlen = s.pixlen

/-- The header position `FIDX`, `BIDX` is unchanged. -/
def keepsHeaderPos (s t : State) : Prop := t.fidx = s.fidx ∧ t.bidx = s.bidx

/-- The packers' registers `CH`, `ACC`, `NBITS` and `PCNT` are unchanged. -/
def keepsPackers (s t : State) : Prop := t.ch = s.ch ∧ t.acc = s.acc ∧ t.nbits = s.nbits ∧ t.pcnt = s.pcnt

/-- All eight working registers of the sequencer are unchanged (R20). -/
def keepsWorking (s t : State) : Prop := keepsHeaderPos s t ∧ t.row = s.row ∧ t.col = s.col ∧ keepsPackers s t

/-- `PIX`, every byte of `OUT` but those in `written`, the platform's sizes and the host's list are unchanged. -/
def keepsMemoryBut (written : Nat → Prop) (s t : State) : Prop :=
  t.pix = s.pix ∧ (∀ a, ¬ written a → t.outByte a = s.outByte a) ∧ t.pixSize = s.pixSize ∧ t.outSize = s.outSize ∧
    t.host = s.host

/-- Nothing is emitted and no memory changes. -/
def emitsNothing (s t : State) : Prop := t.ocur = s.ocur ∧ keepsMemoryBut (fun _ => False) s t

/-- One byte is emitted: `OUT[OCUR]` is `b`, `OCUR` rises by 1, and nothing else of either memory changes (R64). -/
def emitsByte (b : Byte) (s t : State) : Prop :=
  t.outByte s.ocur.toNat = b ∧ t.ocur.toNat = s.ocur.toNat + 1 ∧ keepsMemoryBut (fun a => a = s.ocur.toNat) s t

/-- `OUT[OCUR]` is backed and `OCUR + 1` fits its register: what an `Emit` needs (R64, R204). -/
def State.canEmit (s : State) : Prop := s.ocur.toNat < s.outSize ∧ s.ocur.toNat + 1 < wordSpan

/-- Sample `i` is admitted and backed: what a `PixRead` needs (R62, U5). -/
def State.canRead (s : State) (i : Nat) : Prop := i < s.pixlen.toNat ∧ i < s.pixSize

/-- What `NextRow` does to `COL`, `ROW`, `PHASE` and `DONE` (R200). -/
def rowAdvanced (s t : State) : Prop :=
  t.col = 0 ∧ t.row.toNat = s.row.toNat + 1 ∧
    if s.row.toNat + 1 = s.height.toNat then t.phase = .idle ∧ t.done = true
    else t.phase = (if s.bpp = 1#16 then .pix1 else .pix24) ∧ t.done = s.done

/-- What `EndRowData` does, called with `COL` at `WIDTH`, to `PHASE`, `PCNT`, `ROW`, `COL` and `DONE` (R198). -/
def rowDataEnded (s t : State) : Prop :=
  if 0 < s.pad.toNat then t.phase = .padw ∧ t.pcnt = 0 ∧ t.row = s.row ∧ t.col = s.width ∧ t.done = s.done
  else rowAdvanced s t ∧ t.pcnt = s.pcnt

/-- What a step of the serializer does with field `k` of value `v` (R141): lane `BIDX` of `v` is emitted, then the next
lane, the next field or the pixel phase; nothing else changes. -/
def fieldByteEmitted (k v : Nat) (s t : State) : Prop :=
  emitsByte (lane v s.bidx.toNat) s t ∧
    (if s.bidx.toNat + 1 < fieldSize k then t.bidx.toNat = s.bidx.toNat + 1 ∧ t.fidx = s.fidx ∧ t.phase = .hdr
     else if k = lastField s.bpp.toNat then
       t.bidx = 0 ∧ t.fidx = s.fidx ∧ t.phase = (if s.bpp = 1#16 then .pix1 else .pix24)
     else t.bidx = 0 ∧ t.fidx.toNat = k + 1 ∧ t.phase = .hdr) ∧
    keepsConfig s t ∧ keepsCommandRegs s t ∧ t.done = s.done ∧ t.row = s.row ∧ t.col = s.col ∧ keepsPackers s t

/-- The state selects lane `BIDX` of field `k`, which the field has, and the byte can be emitted (R101, R141). -/
def State.atField (s : State) (k : Nat) : Prop :=
  s.phase = .hdr ∧ s.fidx.toNat = k ∧ s.bidx.toNat < fieldSize k ∧ s.canEmit

/-- R49, `CFGV = 1`: the configuration registers hold a successfully constructed ImageSpec. -/
def State.configOk (s : State) : Prop :=
  (s.bpp.toNat = 1 ∨ s.bpp.toNat = 24) ∧ 1 ≤ s.width.toNat ∧ s.width.toNat ≤ 2 ^ 31 - 1 ∧ 1 ≤ s.height.toNat ∧
    s.height.toNat ≤ 2 ^ 31 - 1 ∧ s.rbu.toNat = rowBytesUnpadded s.width.toNat s.bpp.toNat ∧
    s.pad.toNat = padding s.rbu.toNat ∧ s.prb.toNat = s.rbu.toNat + s.pad.toNat ∧ s.prb.toNat % 4 = 0 ∧
    s.fileBytes ≤ 2 ^ 32 - 1

/-- R49, `PHASE != IDLE`, with duty H6 as the accepted `ENC` found it (R122). -/
def State.busyOk (s : State) : Prop :=
  s.cfgv = true ∧ s.done = false ∧ s.err = .none ∧ s.requiredSamples ≤ s.pixlen.toNat ∧
    s.row.toNat < s.height.toNat ∧ s.col.toNat ≤ s.width.toNat ∧ s.ocur.toNat < s.fileBytes ∧
    s.pixlen.toNat ≤ s.pixSize ∧ s.fileBytes ≤ s.outSize

/-- The header has been emitted: `FIDX` and `BIDX` stand at the last field (R141, R200). -/
def State.headerDone (s : State) : Prop := s.fidx.toNat = lastField s.bpp.toNat ∧ s.bidx = 0

/-- Where output row `ROW` starts in `OUT` (R63). -/
def State.rowStart (s : State) : Nat := headerSize s.bpp.toNat + s.row.toNat * s.prb.toNat

/-- R49, `PHASE = HDR`. -/
def State.hdrOk (s : State) : Prop :=
  s.fidx.toNat ≤ lastField s.bpp.toNat ∧ s.bidx.toNat < fieldSize s.fidx.toNat ∧
    s.ocur.toNat = fieldOffset s.fidx.toNat + s.bidx.toNat ∧
    s.row = 0 ∧ s.col = 0 ∧ s.ch = 0 ∧ s.acc = 0 ∧ s.nbits = 0 ∧ s.pcnt = 0

/-- R49, `PHASE = PIX1`; also `CH`, `PCNT` and the header position, which R200 gives. -/
def State.pix1Ok (s : State) : Prop :=
  s.bpp.toNat = 1 ∧ s.nbits.toNat ≤ 8 ∧ s.acc.toNat < 2 ^ s.nbits.toNat ∧
    (s.col = s.width → 0 < s.nbits.toNat) ∧ (s.col.toNat % 8 ≠ 0 → s.nbits.toNat = s.col.toNat % 8) ∧
    (s.col.toNat % 8 = 0 → s.nbits.toNat = 0 ∨ s.nbits.toNat = 8 ∧ 0 < s.col.toNat) ∧
    s.ocur.toNat = s.rowStart + (s.col.toNat - s.nbits.toNat) / 8 ∧
    s.ch = 0 ∧ s.pcnt = 0 ∧ s.headerDone

/-- R49, `PHASE = PIX24`; also `PCNT` and the header position, which R200 gives. -/
def State.pix24Ok (s : State) : Prop :=
  s.bpp.toNat = 24 ∧ s.col.toNat < s.width.toNat ∧ s.ch.toNat ≤ 2 ∧
    s.ocur.toNat = s.rowStart + 3 * s.col.toNat + s.ch.toNat ∧
    s.acc = 0 ∧ s.nbits = 0 ∧ s.pcnt = 0 ∧ s.headerDone

/-- R49, `PHASE = PADW`; also `ACC` and the header position, which R200 gives. -/
def State.padwOk (s : State) : Prop :=
  0 < s.pad.toNat ∧ s.pcnt.toNat < s.pad.toNat ∧ s.col = s.width ∧ s.nbits = 0 ∧ s.ch = 0 ∧
    s.ocur.toNat = s.rowStart + s.rbu.toNat + s.pcnt.toNat ∧ s.acc = 0 ∧ s.headerDone

/-- The ranges of the phase the sequencer is in (R49). -/
def State.phaseOk (s : State) : Prop :=
  match s.phase with
  | .idle => True
  | .hdr => s.busyOk ∧ s.hdrOk
  | .pix1 => s.busyOk ∧ s.pix1Ok
  | .pix24 => s.busyOk ∧ s.pix24Ok
  | .padw => s.busyOk ∧ s.padwOk

/-- Both memories are canonical and lie within what the platform backs, which lies within the address spaces (R60). -/
def State.memoryOk (s : State) : Prop :=
  Memory.wf s.pixSize s.pix = true ∧ Memory.wf s.outSize s.out = true ∧ s.pixSize ≤ sampleSpan ∧ s.outSize ≤ wordSpan

/-- R49, `DONE = 1`: the block is idle, and `ROW` and `OCUR` are the height and the file size of a configuration in the
contract domain: that of the encode that ran. -/
def State.doneOk (s : State) : Prop :=
  s.phase = .idle ∧ ∃ w h b : Nat, (b = 1 ∨ b = 24) ∧ inDomain w h b = true ∧ s.row.toNat = h ∧
    s.ocur.toNat = fileSize w h b

/-- The invariant: the ranges of R49 and the canonical form of the memories. -/
def State.Inv (s : State) : Prop :=
  s.memoryOk ∧ (s.cfgv = true → s.configOk) ∧ s.phaseOk ∧ (s.done = true → s.doneOk)

/-- The image the contract gives for the configuration and the samples of a state (R124). -/
def State.image (s : State) : List Byte := encodeImage s.width.toNat s.height.toNat s.bpp.toNat s.sample

/-- The bytes emitted so far are the first `OCUR` bytes of the image (R127). -/
def State.outputOk (s : State) : Prop := ∀ a, a < s.ocur.toNat → s.image[a]? = some (s.outByte a)

/-- In `PIX1`, bit `k` of the low `NBITS` bits of `ACC` is that of the sample read `k` reads before the last (R37). -/
def State.accOk (s : State) : Prop :=
  s.phase = .pix1 → ∀ k, k < s.nbits.toNat → s.acc.getLsbD k = decide (s.sample (pixelNumber s - 1 - k) = 0xFF#8)

/-- The host lets the block take its own step: it has nothing to do, waits, or stands by. -/
def State.hostStandsBy (s : State) : Prop :=
  s.host = [] ∨ (∃ rest, s.host = .wait :: rest) ∨ (∃ rest, s.host = .tick :: rest)

end Sys2Proof.Machine
end

