-- ==== Sys2Proof/WellFormed.lean ====
section
/-!
DEFINITION. Which instructions are well formed whatever the state of the block is: the operands of a `CFG` lie in the
contract domain (R7; host duty H4 of R256). The operand types already keep every operand within its field (R94), an
`ENC` may present any `pixlen`, and the micro-operations and field emitters have no operands.
-/

namespace Sys2Proof

/-- The operands are ones the host may present: for `CFG`, the contract domain of R7. The depth of a `CFG` may be any
16-bit value (R91): an unsupported one is an error the block reports (R107), not an ill-formed command. -/
def Instr.wellFormed : Instr → Bool
  | .cfg width height bpp => Machine.inDomain width.toNat height.toNat bpp.toNat
  | .enc _ => true
  | .hdrByte => true
  | .pk1Shift => true
  | .pk1Flush => true
  | .pk24Byte => true
  | .padByte => true
  | .hfMagic => true
  | .hfFsize => true
  | .hfRsvd => true
  | .hfDoff => true
  | .hfDibsz => true
  | .hfWidth => true
  | .hfHeight => true
  | .hfPlanes => true
  | .hfBpp => true
  | .hfComp => true
  | .hfIsize => true
  | .hfXres => true
  | .hfYres => true
  | .hfNcol => true
  | .hfNimp => true
  | .hfPal0 => true
  | .hfPal1 => true

end Sys2Proof
end

