-- ==== Sys2Proof/Certificates/Slice0/Obligations.lean ====
section
/-!
DEFINITION. The statements for the provers. Each docstring names the rules of spec/ a statement formalises. No statement
rests on a value of Config's free functions.
-/

open Sys2Proof Sys2Proof.Machine

/-! Encodings (30_encoding.md). -/

/-- R91, R93, R100, R101: decoding the code of an instruction gives the instruction, with every operand at every value. -/
def Obligations.DecodeInvertsEncode : Prop := ∀ i : Instr, decode (encode i) = .ok i

/-- R91 to R95: a command word means an instruction exactly when it is that instruction's own word, so no bit of a word
is dropped and no two words mean the same. -/
def Obligations.CommandWordHasOneMeaning : Prop :=
  ∀ (w : CmdWord) (i : Instr), decodeCommand w = .ok i ↔ encode i = .command w

/-- R98: the decoder agrees with spec/opcode_table.json. What it reads from a code lies in a row that accepts the code,
and a code that a row accepts is read as an instruction of that row. -/
def Obligations.DecodeAgreesWithTable : Prop :=
  ∀ (c : Code) (i : Instr),
    (decode c = .ok i → i.row.accepts c = true) ∧
      (i.row.accepts c = true → ∃ j, decode c = .ok j ∧ j.row = i.row)

/-- R95: the reserved command words are refused, and only they: every other word is a `CFG` or an `ENC`. -/
def Obligations.ReservedCommandWordsRefused : Prop :=
  ∀ (w : CmdWord) (rest : List HostAction) (s : State), s.phase = .idle → s.host = .command w :: rest →
    if (w.extractLsb' 88 8 ≠ 0x01#8 ∧ w.extractLsb' 88 8 ≠ 0x02#8) ∨
        (w.extractLsb' 88 8 = 0x01#8 ∧ w.extractLsb' 80 8 ≠ 0#8) ∨
        (w.extractLsb' 88 8 = 0x02#8 ∧ w.extractLsb' 64 24 ≠ 0#24) then
      ∃ why, step s = .refused (.reservedWord why)
    else
      (∃ width height bpp, decodeCommand w = .ok (.cfg width height bpp)) ∨
        (∃ pixlen, decodeCommand w = .ok (.enc pixlen))

/-- Words written out in 95_test_vectors.md (K2, K3, E5, E2), the values of `PHASE` with `F` of R100 and of `FIDX` of
R101 decode to the instructions they stand for. -/
def Obligations.SpecWordsDecode : Prop :=
  decodeCommand 0x010000180000000100000001#96 = .ok (.cfg 1#32 1#32 24#16) ∧
    decodeCommand 0x01000018000001E000000280#96 = .ok (.cfg 640#32 480#32 24#16) ∧
    decodeCommand 0x010000200000000100000001#96 = .ok (.cfg 1#32 1#32 32#16) ∧
    decodeCommand 0x02000000000000000000000B#96 = .ok (.enc 11#64) ∧
    decodeDisp 0b0001#4 = .ok .hdrByte ∧ decodeDisp 0b1001#4 = .ok .hdrByte ∧ decodeDisp 0b0010#4 = .ok .pk1Shift ∧
    decodeDisp 0b1010#4 = .ok .pk1Flush ∧ decodeDisp 0b1011#4 = .ok .pk24Byte ∧ decodeDisp 0b0100#4 = .ok .padByte ∧
    decodeFidx 6#5 = .ok .hfHeight ∧ decodeFidx 16#5 = .ok .hfPal1

/-- R99, R100: which micro-operation the sequencer's state selects; while `PHASE = IDLE`, none. In `PIX1` the two
conditions are complementary (R172) for the values R35 and R38 allow. -/
def Obligations.DispatchSelectsMicroOperation : Prop :=
  ∀ s : State,
    (s.phase = .idle → decodeDisp s.disp = .error .idlePhase) ∧
      (s.phase = .hdr → decodeDisp s.disp = .ok .hdrByte) ∧
      (s.phase = .pix1 → (s.nbits.toNat = 8 ∨ s.col = s.width) → decodeDisp s.disp = .ok .pk1Flush) ∧
      (s.phase = .pix1 → (s.nbits.toNat < 8 ∧ s.col.toNat < s.width.toNat) → decodeDisp s.disp = .ok .pk1Shift) ∧
      (s.phase = .pix24 → decodeDisp s.disp = .ok .pk24Byte) ∧
      (s.phase = .padw → decodeDisp s.disp = .ok .padByte) ∧
      (s.nbits.toNat ≤ 8 → s.col.toNat ≤ s.width.toNat →
        ((s.nbits.toNat = 8 ∨ s.col = s.width) ↔ ¬ (s.nbits.toNat < 8 ∧ s.col.toNat < s.width.toNat)))

/-- R101: within `HDR.BYTE` the step is that of the field `FIDX` selects, which the model deduces (log entry 12, DEDUCED). The
values R109 reserves are refused, which is the model's choice (log entry 7, DESIGN CHOICE): R109 says only that they are
reserved and unreachable. -/
def Obligations.HdrByteRunsSelectedField : Prop :=
  ∀ s : State, s.phase = .hdr →
    (∀ i, decodeFidx s.fidx = .ok i → exec .hdrByte s = exec i s) ∧
      (17 ≤ s.fidx.toNat → exec .hdrByte s = .refused .reservedFidx)

/-- R101: the table of the seventeen fields (the emitter `FIDX` selects, offset, size), and that they tile the header: each
offset is the one before plus the size before, and the last ends at 62, at other depths at 54. -/
def Obligations.HeaderFieldsTile : Prop :=
  (List.range 17).map (fun k => (decodeFidx (BitVec.ofNat 5 k)).toOption) =
      [some .hfMagic, some .hfFsize, some .hfRsvd, some .hfDoff, some .hfDibsz, some .hfWidth, some .hfHeight,
        some .hfPlanes, some .hfBpp, some .hfComp, some .hfIsize, some .hfXres, some .hfYres, some .hfNcol, some .hfNimp,
        some .hfPal0, some .hfPal1] ∧
    (List.range 17).map fieldOffset = [0, 2, 6, 10, 14, 18, 22, 26, 28, 30, 34, 38, 42, 46, 50, 54, 58] ∧
    (List.range 17).map fieldSize = [2, 4, 4, 4, 4, 4, 4, 2, 2, 4, 4, 4, 4, 4, 4, 4, 4] ∧
    (∀ k, fieldOffset (k + 1) = fieldOffset k + fieldSize k) ∧
    (∀ b, fieldOffset (lastField b) + fieldSize (lastField b) = headerSize b)

/-! One step (R13). -/

/-- A command step runs the decoded instruction, in the state whose host list has gone on; while the block is busy the
step is refused, as the instruction itself is. -/
def Obligations.StepRunsPresentedCommand : Prop :=
  ∀ (s : State) (w : CmdWord) (rest : List HostAction) (i : Instr), s.host = .command w :: rest →
    decodeCommand w = .ok i → step s = exec i { s with host := rest }

/-- A sequencer step runs the micro-operation `DISP` selects: in the same state when the host has nothing to do or
waits, and with the host's list gone on when it stands by for one step. -/
def Obligations.StepRunsSelectedMicroOperation : Prop :=
  ∀ (s : State) (i : Instr), decodeDisp s.disp = .ok i →
    ((s.host = [] ∨ ∃ rest, s.host = .wait :: rest) → step s = exec i s) ∧
      (∀ rest, s.host = .tick :: rest → step s = exec i { s with host := rest })

/-- The model's own choice (log entry 2): an idle block whose host has nothing to do stays as it is. -/
def Obligations.IdleBlockStaysAsItIs : Prop :=
  ∀ s : State, s.phase = .idle →
    (s.host = [] → step s = .next s) ∧
      (∀ rest, s.host = .wait :: rest ∨ s.host = .tick :: rest → step s = .next { s with host := rest })

/-- R250: the reset step, from any state: every register 0, neither memory touched, and the block then does nothing
until a command is presented. -/
def Obligations.ResetStepClearsRegisters : Prop :=
  ∀ (s : State) (rest : List HostAction), s.host = .reset :: rest →
    ∃ t, step s = .next t ∧
      t.width = 0 ∧ t.height = 0 ∧ t.bpp = 0 ∧ t.rbu = 0 ∧ t.pad = 0 ∧ t.prb = 0 ∧ t.phase = .idle ∧ t.cfgv = false ∧
      t.done = false ∧ t.err = .none ∧ t.ocur = 0 ∧ t.pixlen = 0 ∧ t.fidx = 0 ∧ t.bidx = 0 ∧ t.row = 0 ∧ t.col = 0 ∧
      t.ch = 0 ∧ t.acc = 0 ∧ t.nbits = 0 ∧ t.pcnt = 0 ∧
      t.pix = s.pix ∧ t.out = s.out ∧ t.pixSize = s.pixSize ∧ t.outSize = s.outSize ∧ t.host = rest ∧
      (t.host = [] → step t = .next t)

/-- R48: after reset every register of R20 is 0, the block idle with no configuration, no result and no error. -/
def Obligations.RegistersAfterReset : Prop :=
  State.reset.phase = .idle ∧ State.reset.cfgv = false ∧ State.reset.done = false ∧ State.reset.err = .none ∧
    State.reset.ocur = 0 ∧ State.reset.width = 0 ∧ State.reset.height = 0 ∧ State.reset.bpp = 0 ∧ State.reset.rbu = 0 ∧
    State.reset.pad = 0 ∧ State.reset.prb = 0 ∧ State.reset.pixlen = 0 ∧ State.reset.fidx = 0 ∧ State.reset.bidx = 0 ∧
    State.reset.row = 0 ∧ State.reset.col = 0 ∧ State.reset.ch = 0 ∧ State.reset.acc = 0 ∧ State.reset.nbits = 0 ∧
    State.reset.pcnt = 0 ∧ State.reset.status = 0

/-- R27, R28: the fields of the word `STATUS`. -/
def Obligations.StatusWordFields : Prop :=
  ∀ s : State,
    s.status.extractLsb' 0 3 =
        (match s.phase with | .idle => 0#3 | .hdr => 1#3 | .pix1 => 2#3 | .pix24 => 3#3 | .padw => 4#3) ∧
      (s.status.getLsbD 3 = true ↔ s.phase ≠ .idle) ∧ s.status.getLsbD 4 = s.cfgv ∧ s.status.getLsbD 5 = s.done ∧
      s.status.extractLsb' 6 2 =
        (match s.err with | .none => 0#2 | .unsupportedFormat => 1#2 | .outOfBounds => 2#2) ∧
      s.status.extractLsb' 8 24 = 0#24

/-- A host write to a backed cell of `PIX`, or of `OUT` while the block is idle, writes that cell and nothing else of the
state. The model's choices: that the host's actions are steps (log entry 2, DESIGN CHOICE); that a write to `PIX` completes
also while `BUSY`, where R45 and duty H5 forbid it (log entry 5, DESIGN CHOICE, the second treatment of U4); and that a write
to `OUT` while `BUSY`, for which R60 and R257 leave the host no move, is refused by name (log entry 16, DEDUCED). -/
def Obligations.HostWritesOneCell : Prop :=
  ∀ (s : State) (rest : List HostAction),
    (∀ (i : BitVec 64) (v : Byte), s.host = .writePix i v :: rest → i.toNat < s.pixSize →
      ∃ t, step s = .next t ∧ t.sample i.toNat = v ∧ (∀ j, j ≠ i.toNat → t.sample j = s.sample j) ∧
        t = { s with host := rest, pix := t.pix }) ∧
      (∀ (a : Word) (v : Byte), s.host = .writeOut a v :: rest → a.toNat < s.outSize →
        (s.phase = .idle →
          ∃ t, step s = .next t ∧ t.outByte a.toNat = v ∧ (∀ c, c ≠ a.toNat → t.outByte c = s.outByte c) ∧
            t = { s with host := rest, out := t.out }) ∧
          (s.phase ≠ .idle → step s = .refused .outWriteWhileBusy))

/-! The host commands (40_commands.md, 60_exceptions.md). -/

/-- R121, R224: `CFG` presented to an idle block with operands in the contract domain of R7 (else it is refused). A
supported depth configures the block; any other depth raises `UnsupportedFormat`: `ERR` and `CFGV` change and nothing
else. -/
def Obligations.CfgConfiguresOrRaises : Prop :=
  ∀ (s : State) (width height : Word) (bpp : BitVec 16),
    if ¬ (s.phase = .idle ∧ 1 ≤ width.toNat ∧ width.toNat ≤ 2 ^ 31 - 1 ∧ 1 ≤ height.toNat ∧ height.toNat ≤ 2 ^ 31 - 1 ∧
        (bpp.toNat = 1 ∨ bpp.toNat = 24 →
          headerSize bpp.toNat + height.toNat * paddedRowBytes width.toNat bpp.toNat ≤ 2 ^ 32 - 1)) then
      ∃ why, exec (.cfg width height bpp) s = .refused why
    else
      ∃ t, exec (.cfg width height bpp) s = .next t ∧
        (if bpp.toNat = 1 ∨ bpp.toNat = 24 then
          t.width = width ∧ t.height = height ∧ t.bpp = bpp ∧
            t.rbu.toNat = rowBytesUnpadded width.toNat bpp.toNat ∧
            t.pad.toNat = padding (rowBytesUnpadded width.toNat bpp.toNat) ∧
            t.prb.toNat = paddedRowBytes width.toNat bpp.toNat ∧ t.cfgv = true ∧ t.err = .none
        else keepsConfig s t ∧ t.cfgv = false ∧ t.err = .unsupportedFormat) ∧
        t.phase = .idle ∧ t.done = s.done ∧ t.pixlen = s.pixlen ∧ keepsWorking s t ∧ emitsNothing s t

/-- R122, R123, R225: `ENC` on a configured idle block whose memories are large enough (H6): a buffer shorter than required
raises `OutOfBounds` and leaves everything but `DONE`, `OCUR` and `ERR`; any other starts the encode. Presented while
busy, without a configuration, or with memories that are too small, it is refused. That the last holds also of a buffer
shorter than required, which R257's row of a failing `ENC` may be read against, is the model's reading of R122 (log entry 4,
DEDUCED). -/
def Obligations.EncStartsOrRaises : Prop :=
  ∀ (s : State) (pixlen : BitVec 64), (s.bpp.toNat = 1 ∨ s.bpp.toNat = 24) →
    let needed := if s.bpp.toNat = 1 then s.width.toNat * s.height.toNat else 3 * s.width.toNat * s.height.toNat
    let large := pixlen.toNat ≤ s.pixSize ∧ headerSize s.bpp.toNat + s.height.toNat * s.prb.toNat ≤ s.outSize
    (s.phase ≠ .idle ∨ s.cfgv = false ∨ ¬ large →
        ∃ why, exec (.enc pixlen) s = .refused why) ∧
      (s.phase = .idle → s.cfgv = true → large →
        ∃ t, exec (.enc pixlen) s = .next t ∧ t.done = false ∧ t.ocur = 0 ∧
          (if pixlen.toNat < needed then
            t.err = .outOfBounds ∧ t.phase = .idle ∧ t.pixlen = s.pixlen ∧ keepsWorking s t
          else
            t.err = .none ∧ t.phase = .hdr ∧ t.pixlen = pixlen ∧ t.fidx = 0 ∧ t.bidx = 0 ∧ t.row = 0 ∧ t.col = 0 ∧
              t.ch = 0 ∧ t.acc = 0 ∧ t.nbits = 0 ∧ t.pcnt = 0) ∧
          keepsConfig s t ∧ t.cfgv = true ∧ keepsMemoryBut (fun _ => False) s t)

/-- R122's precondition, duty H6 of R256, read as R122 has it and not as R257's row of a failing `ENC` may be read (log entry
4, DEDUCED): an `ENC` whose memories are too small is refused whether or not its buffer is long enough, and so is the step
that presents it. -/
def Obligations.MemorySizesAskedOfEveryEnc : Prop :=
  ∀ (s : State) (pixlen : BitVec 64), s.phase = .idle → s.cfgv = true →
    (s.pixSize < pixlen.toNat ∨ s.outSize < headerSize s.bpp.toNat + s.height.toNat * s.prb.toNat) →
    exec (.enc pixlen) s = .refused .memoryTooSmall ∧
      ∀ w rest, s.host = .command w :: rest → decodeCommand w = .ok (.enc pixlen) → step s = .refused .memoryTooSmall

/-- R120: a command presented while the block is busy is refused, and a command step reads no sample and emits nothing:
both memories are as they were. -/
def Obligations.CommandsNeedAnIdleBlock : Prop :=
  ∀ s : State,
    (s.phase ≠ .idle → ∀ width height bpp pixlen,
      exec (.cfg width height bpp) s = .refused .commandWhileBusy ∧
        exec (.enc pixlen) s = .refused .commandWhileBusy) ∧
      (s.phase ≠ .idle → ∀ w rest, s.host = .command w :: rest → step s = .refused .commandWhileBusy) ∧
      (∀ width height bpp t, exec (.cfg width height bpp) s = .next t → t.pix = s.pix ∧ t.out = s.out) ∧
      (∀ pixlen t, exec (.enc pixlen) s = .next t → t.pix = s.pix ∧ t.out = s.out)

/-- R228: what the host owes comes before the error checks. A `CFG` outside the contract domain of R7 is refused whatever
its depth, and an `ENC` without a configuration, or with memories that are too small for it (R122, log entry 4), is
refused whatever the check of its length would say. -/
def Obligations.DutiesComeBeforeErrors : Prop :=
  ∀ (s : State), s.phase = .idle →
    (∀ (width height : Word) (bpp : BitVec 16),
      ¬ (1 ≤ width.toNat ∧ width.toNat ≤ 2 ^ 31 - 1 ∧ 1 ≤ height.toNat ∧ height.toNat ≤ 2 ^ 31 - 1 ∧
          (bpp.toNat = 1 ∨ bpp.toNat = 24 → fileSize width.toNat height.toNat bpp.toNat ≤ 2 ^ 32 - 1)) →
        exec (.cfg width height bpp) s = .refused .outsideDomain) ∧
      (s.cfgv = false → ∀ pixlen, exec (.enc pixlen) s = .refused .notConfigured) ∧
      (s.cfgv = true → ∀ pixlen : BitVec 64, pixlen.toNat < required s.width.toNat s.height.toNat s.bpp.toNat →
        s.pixSize < pixlen.toNat → exec (.enc pixlen) s = .refused .memoryTooSmall)

/-- R254: nothing of an earlier encode survives an accepted `ENC`: two blocks with the same configuration and memories
that may differ in every other register start the encode in the same state. -/
def Obligations.AcceptedEncForgetsEarlierEncodes : Prop :=
  ∀ (s r t : State) (pixlen : BitVec 64), keepsConfig s r → r.cfgv = s.cfgv → r.phase = s.phase → r.pix = s.pix →
    r.out = s.out → r.pixSize = s.pixSize → r.outSize = s.outSize → r.host = s.host →
    exec (.enc pixlen) s = .next t → t.phase = .hdr → exec (.enc pixlen) r = .next t

/-! The header serializer (41_header_serializer.md). -/

/-- R142, R144, R146, R149, R151, R153, R154: the fields whose value depends on no register: offset and size of each, the
bytes of its value, and the step that emits one of them. That a field emitter's step is the whole of `HDR.BYTE` (R141) with
that field is the model's deduction (log entry 12, DEDUCED). -/
def Obligations.ConstantFieldsEmitted : Prop :=
  ([0, 2, 4, 7, 9, 11, 12].map fun k => (fieldOffset k, fieldSize k)) =
      [(0, 2), (6, 4), (14, 4), (26, 2), (30, 4), (38, 4), (42, 4)] ∧
    littleEndian 2 0x4D42 = [0x42#8, 0x4D#8] ∧ littleEndian 4 0 = [0x00#8, 0x00#8, 0x00#8, 0x00#8] ∧
    littleEndian 4 40 = [0x28#8, 0x00#8, 0x00#8, 0x00#8] ∧ littleEndian 2 1 = [0x01#8, 0x00#8] ∧
  ∀ s : State,
    (s.atField 0 → ∃ t, exec .hfMagic s = .next t ∧ fieldByteEmitted 0 0x4D42 s t) ∧
      (s.atField 2 → ∃ t, exec .hfRsvd s = .next t ∧ fieldByteEmitted 2 0 s t) ∧
      (s.atField 4 → ∃ t, exec .hfDibsz s = .next t ∧ fieldByteEmitted 4 40 s t) ∧
      (s.atField 7 → ∃ t, exec .hfPlanes s = .next t ∧ fieldByteEmitted 7 1 s t) ∧
      (s.atField 9 → ∃ t, exec .hfComp s = .next t ∧ fieldByteEmitted 9 0 s t) ∧
      (s.atField 11 → ∃ t, exec .hfXres s = .next t ∧ fieldByteEmitted 11 0 s t) ∧
      (s.atField 12 → ∃ t, exec .hfYres s = .next t ∧ fieldByteEmitted 12 0 s t)

/-- R143, R145, R147, R148, R150, R152: the fields that hold the image's sizes: offset and size of each, and the step that
emits a byte of it. That a field emitter's step is the whole of `HDR.BYTE` (R141) with that field is the model's deduction
(log entry 12, DEDUCED). That a value which does not fit its field, outside the contract domain, is emitted by its low lanes
is the model's choice (log entry 14, DESIGN CHOICE). -/
def Obligations.SizeFieldsEmitted : Prop :=
  ([1, 3, 5, 6, 8, 10].map fun k => (fieldOffset k, fieldSize k)) =
      [(2, 4), (10, 4), (18, 4), (22, 4), (28, 2), (34, 4)] ∧
  ∀ s : State,
    (s.atField 1 → ∃ t, exec .hfFsize s = .next t ∧
      fieldByteEmitted 1 ((if s.bpp.toNat = 1 then 62 else 54) + s.height.toNat * s.prb.toNat) s t) ∧
      (s.atField 3 → ∃ t, exec .hfDoff s = .next t ∧ fieldByteEmitted 3 (if s.bpp.toNat = 1 then 62 else 54) s t) ∧
      (s.atField 5 → ∃ t, exec .hfWidth s = .next t ∧ fieldByteEmitted 5 s.width.toNat s t) ∧
      (s.atField 6 → ∃ t, exec .hfHeight s = .next t ∧ fieldByteEmitted 6 (2 ^ 32 - s.height.toNat) s t) ∧
      (s.atField 8 → ∃ t, exec .hfBpp s = .next t ∧ fieldByteEmitted 8 s.bpp.toNat s t) ∧
      (s.atField 10 → ∃ t, exec .hfIsize s = .next t ∧ fieldByteEmitted 10 (s.height.toNat * s.prb.toNat) s t)

/-- R155 to R158: the colour counts and, at 1 bpp only, the palette: offset and size of each, the palette's bytes, and the
step that emits one. That a field emitter's step is the whole of `HDR.BYTE` (R141) with that field is the model's deduction
(log entry 12, DEDUCED). That a palette emitter at another depth is refused, and refused as absent whether or not the state
selects it, is the model's choice (log entry 7, DESIGN CHOICE). -/
def Obligations.ColourFieldsEmitted : Prop :=
  ([13, 14, 15, 16].map fun k => (fieldOffset k, fieldSize k)) = [(46, 4), (50, 4), (54, 4), (58, 4)] ∧
    littleEndian 4 0x00000000 = [0x00#8, 0x00#8, 0x00#8, 0x00#8] ∧
    littleEndian 4 0x00FFFFFF = [0xFF#8, 0xFF#8, 0xFF#8, 0x00#8] ∧
  ∀ s : State,
    (s.atField 13 → ∃ t, exec .hfNcol s = .next t ∧ fieldByteEmitted 13 (if s.bpp.toNat = 1 then 2 else 0) s t) ∧
      (s.atField 14 → ∃ t, exec .hfNimp s = .next t ∧ fieldByteEmitted 14 (if s.bpp.toNat = 1 then 2 else 0) s t) ∧
      (s.bpp.toNat = 1 →
        (s.atField 15 → ∃ t, exec .hfPal0 s = .next t ∧ fieldByteEmitted 15 0x00000000 s t) ∧
          (s.atField 16 → ∃ t, exec .hfPal1 s = .next t ∧ fieldByteEmitted 16 0x00FFFFFF s t)) ∧
      (s.bpp.toNat ≠ 1 → exec .hfPal0 s = .refused .paletteAbsent ∧ exec .hfPal1 s = .refused .paletteAbsent)

/-- R141: `HDR.BYTE` emits lane `BIDX` of the field `FIDX` of the header of the configuration, and advances. Outside the
contract domain, where a value may not fit its field, that its low lanes are emitted is the model's choice (log entry 14,
DESIGN CHOICE). -/
def Obligations.HdrByteEmitsHeaderLane : Prop :=
  ∀ s : State, s.phase = .hdr → s.fidx.toNat ≤ lastField s.bpp.toNat → s.bidx.toNat < fieldSize s.fidx.toNat →
    s.canEmit → s.prb.toNat = paddedRowBytes s.width.toNat s.bpp.toNat →
    ∃ t, exec .hdrByte s = .next t ∧
      fieldByteEmitted s.fidx.toNat
        (headerValue s.width.toNat s.height.toNat s.bpp.toNat s.fidx.toNat) s t

/-- R160: byte `i` of the header is the lane of the field it lies in; outside the contract domain, of a value that may not
fit the field, the low lanes are the model's choice (log entry 14, DESIGN CHOICE). -/
def Obligations.HeaderByteIsLaneOfItsField : Prop :=
  ∀ w h b k i : Nat, k ≤ lastField b → i < fieldSize k →
    (headerBytes w h b)[fieldOffset k + i]? = some (BitVec.ofNat 8 (headerValue w h b k / 256 ^ i))

/-! The row packers and the padding writer (42 to 44). -/

/-- R173: `PK1.SHIFT` reads one sample and shifts its bit into `ACC`; it emits nothing. -/
def Obligations.Pk1ShiftTakesOneSample : Prop :=
  ∀ s : State, s.phase = .pix1 → s.nbits.toNat < 8 → s.col.toNat < s.width.toNat →
    s.canRead (s.row.toNat * s.width.toNat + s.col.toNat) →
    ∃ t, exec .pk1Shift s = .next t ∧
      t.acc.toNat = (2 * s.acc.toNat +
        (if s.sample (s.row.toNat * s.width.toNat + s.col.toNat) = 0xFF#8 then 1 else 0)) % 256 ∧
      t.nbits.toNat = s.nbits.toNat + 1 ∧ t.col.toNat = s.col.toNat + 1 ∧
      t.phase = .pix1 ∧ t.row = s.row ∧ t.ch = s.ch ∧ t.pcnt = s.pcnt ∧ t.done = s.done ∧
      keepsHeaderPos s t ∧ keepsConfig s t ∧ keepsCommandRegs s t ∧ emitsNothing s t

/-- R174: `PK1.FLUSH` emits the accumulator left-justified and clears it; with `COL = WIDTH` it ends the row. The row's
number must leave room for the next one where there is no padding (R204). -/
def Obligations.Pk1FlushEmitsPackedByte : Prop :=
  ∀ s : State, s.phase = .pix1 → (s.nbits.toNat = 8 ∨ s.col = s.width) → s.nbits.toNat ≤ 8 → s.canEmit →
    s.row.toNat + 1 < 2 ^ 32 →
    ∃ t, exec .pk1Flush s = .next t ∧
      emitsByte (BitVec.ofNat 8 (s.acc.toNat * 2 ^ (8 - s.nbits.toNat))) s t ∧ t.acc = 0 ∧ t.nbits = 0 ∧
      (if s.col = s.width then rowDataEnded s t
       else t.phase = .pix1 ∧ t.row = s.row ∧ t.col = s.col ∧ t.pcnt = s.pcnt ∧ t.done = s.done) ∧
      t.ch = s.ch ∧ keepsHeaderPos s t ∧ keepsConfig s t ∧ keepsCommandRegs s t

/-- R181, R183: `PK24.BYTE` emits one sample unchanged: B, G, R of the pixel for `CH` = 0, 1, 2. After R the pixel is
done, and after the last pixel the row. -/
def Obligations.Pk24ByteEmitsOneSample : Prop :=
  ∀ s : State, s.phase = .pix24 → s.ch.toNat ≤ 2 → s.col.toNat < s.width.toNat → s.row.toNat + 1 < 2 ^ 32 →
    s.canRead (3 * (s.row.toNat * s.width.toNat + s.col.toNat) + (2 - s.ch.toNat)) → s.canEmit →
    ∃ t, exec .pk24Byte s = .next t ∧
      emitsByte (s.sample (3 * (s.row.toNat * s.width.toNat + s.col.toNat) + (2 - s.ch.toNat))) s t ∧
      (if s.ch.toNat < 2 then
        t.ch.toNat = s.ch.toNat + 1 ∧ t.phase = .pix24 ∧ t.row = s.row ∧ t.col = s.col ∧ t.pcnt = s.pcnt ∧
          t.done = s.done
      else
        t.ch = 0 ∧
          if s.col.toNat + 1 = s.width.toNat then rowDataEnded s t
          else t.col.toNat = s.col.toNat + 1 ∧ t.phase = .pix24 ∧ t.row = s.row ∧ t.pcnt = s.pcnt ∧ t.done = s.done) ∧
      t.acc = s.acc ∧ t.nbits = s.nbits ∧ keepsHeaderPos s t ∧ keepsConfig s t ∧ keepsCommandRegs s t

/-- R199: `PAD.BYTE` emits a zero byte; after the last one of the row, `NextRow`. -/
def Obligations.PadByteEmitsZero : Prop :=
  ∀ s : State, s.phase = .padw → s.pcnt.toNat < s.pad.toNat → s.canEmit → s.row.toNat + 1 < 2 ^ 32 →
    ∃ t, exec .padByte s = .next t ∧ emitsByte 0x00#8 s t ∧
      (if s.pcnt.toNat + 1 < s.pad.toNat then
        t.pcnt.toNat = s.pcnt.toNat + 1 ∧ t.phase = .padw ∧ t.row = s.row ∧ t.col = s.col ∧ t.done = s.done
      else t.pcnt = 0 ∧ rowAdvanced s t) ∧
      t.ch = s.ch ∧ t.acc = s.acc ∧ t.nbits = s.nbits ∧ keepsHeaderPos s t ∧ keepsConfig s t ∧ keepsCommandRegs s t

/-- R62: a `PixRead` that is not admitted has no step. -/
def Obligations.ReadPastPixlenIsStuck : Prop :=
  ∀ s : State,
    (s.phase = .pix1 → s.nbits.toNat < 8 → s.col.toNat < s.width.toNat →
      s.pixlen.toNat ≤ s.row.toNat * s.width.toNat + s.col.toNat → exec .pk1Shift s = .fault .pixNotAdmitted) ∧
      (s.phase = .pix24 → s.ch.toNat ≤ 2 →
        s.pixlen.toNat ≤ 3 * (s.row.toNat * s.width.toNat + s.col.toNat) + (2 - s.ch.toNat) →
        exec .pk24Byte s = .fault .pixNotAdmitted)

/-- U5: a `PixRead` or an `Emit` the platform does not back has no step. That a host write to a cell it does not back has
none either is the model's choice (log entry 5, DESIGN CHOICE): U5 does not speak of the host. -/
def Obligations.UnbackedAccessIsStuck : Prop :=
  ∀ s : State,
    let one := s.row.toNat * s.width.toNat + s.col.toNat
    let three := 3 * one + (2 - s.ch.toNat)
    (s.phase = .pix1 → s.nbits.toNat < 8 → s.col.toNat < s.width.toNat → one < s.pixlen.toNat → s.pixSize ≤ one →
        exec .pk1Shift s = .fault .pixNotBacked) ∧
      (s.phase = .pix24 → s.ch.toNat ≤ 2 → three < s.pixlen.toNat → s.pixSize ≤ three →
        exec .pk24Byte s = .fault .pixNotBacked) ∧
      (s.outSize ≤ s.ocur.toNat →
        (s.phase = .hdr → s.fidx.toNat ≤ lastField s.bpp.toNat → s.bidx.toNat < fieldSize s.fidx.toNat →
            exec .hdrByte s = .fault .outNotBacked) ∧
          (s.phase = .pix1 → (s.nbits.toNat = 8 ∨ s.col = s.width) → s.nbits.toNat ≤ 8 →
            exec .pk1Flush s = .fault .outNotBacked) ∧
          (s.phase = .pix24 → s.ch.toNat ≤ 2 → s.canRead three → exec .pk24Byte s = .fault .outNotBacked) ∧
          (s.phase = .padw → s.pcnt.toNat ≤ 2 → exec .padByte s = .fault .outNotBacked)) ∧
      (∀ (i : BitVec 64) (v : Byte) (rest : List HostAction), s.host = .writePix i v :: rest → s.pixSize ≤ i.toNat →
        step s = .fault .pixNotBacked) ∧
      (∀ (a : Word) (v : Byte) (rest : List HostAction), s.host = .writeOut a v :: rest → s.outSize ≤ a.toNat →
        step s = .fault .outNotBacked)

/-- The model's own choice (log entry 7) for R109, R100 and U7: a state that holds a reserved value is refused by name, and
so is a micro-operation the state does not select. -/
def Obligations.ReservedStatesRefused : Prop :=
  ∀ s : State,
    (s.phase = .hdr → 17 ≤ s.fidx.toNat → exec .hdrByte s = .refused .reservedFidx) ∧
      (s.phase = .hdr → (s.fidx.toNat = 15 ∨ s.fidx.toNat = 16) → s.bpp.toNat ≠ 1 →
        exec .hdrByte s = .refused .paletteAbsent) ∧
      (s.phase = .hdr → (s.fidx.toNat = 0 ∨ s.fidx.toNat = 7 ∨ s.fidx.toNat = 8) → 2 ≤ s.bidx.toNat →
        exec .hdrByte s = .refused .reservedBidx) ∧
      (s.phase = .pix1 → 9 ≤ s.nbits.toNat → s.col = s.width → exec .pk1Flush s = .refused .reservedNbits) ∧
      (s.phase = .pix24 → s.ch.toNat = 3 → exec .pk24Byte s = .refused .reservedCh) ∧
      (s.phase = .padw → s.pcnt.toNat = 3 → exec .padByte s = .refused .reservedPcnt) ∧
      (s.phase ≠ .hdr → exec .hdrByte s = .refused .notSelected) ∧
      (¬ (s.phase = .pix1 ∧ s.nbits.toNat < 8 ∧ s.col.toNat < s.width.toNat) →
        exec .pk1Shift s = .refused .notSelected) ∧
      (¬ (s.phase = .pix1 ∧ (s.nbits.toNat = 8 ∨ s.col = s.width)) → exec .pk1Flush s = .refused .notSelected) ∧
      (s.phase ≠ .pix24 → exec .pk24Byte s = .refused .notSelected) ∧
      (s.phase ≠ .padw → exec .padByte s = .refused .notSelected) ∧
      (∀ (f : BitVec 5) (i : Instr), decodeFidx f = .ok i → (f.toNat < 15 ∨ s.bpp.toNat = 1) →
        (¬ (s.phase = .hdr ∧ s.fidx = f) → exec i s = .refused .notSelected) ∧
          (s.phase = .hdr → s.fidx = f → fieldSize f.toNat ≤ s.bidx.toNat → exec i s = .refused .reservedBidx))

/-! The calculator (44_stride_alignment.md). -/

/-- R197: the laws of the calculator. -/
def Obligations.StrideIsLeastMultipleOfFour : Prop :=
  ∀ w b : Nat, 1 ≤ w → b = 1 ∨ b = 24 →
    1 ≤ rowBytesUnpadded w b ∧ padding (rowBytesUnpadded w b) ≤ 3 ∧ paddedRowBytes w b % 4 = 0 ∧
      rowBytesUnpadded w b ≤ paddedRowBytes w b ∧
      (∀ m, m % 4 = 0 → rowBytesUnpadded w b ≤ m → paddedRowBytes w b ≤ m) ∧
      paddedRowBytes w b = 4 * ((rowBytesUnpadded w b + 3) / 4) ∧ 4 ≤ paddedRowBytes w b ∧
      (b = 1 → 8 * (rowBytesUnpadded w b - 1) < w ∧ w ≤ 8 * rowBytesUnpadded w b) ∧
      (b = 24 → rowBytesUnpadded w b = 3 * w ∧ padding (rowBytesUnpadded w b) = w % 4) ∧
      (∀ h, 1 ≤ h → fileSize w h b = headerSize b + h * paddedRowBytes w b ∧ 58 ≤ fileSize w h b)

/-- R204: inside the contract domain no register overflows and every sample index is far below `2^64`. -/
def Obligations.DomainArithmeticFits : Prop :=
  ∀ w h b : Nat, b = 1 ∨ b = 24 → inDomain w h b = true →
    w * b < 2 ^ 36 ∧ rowBytesUnpadded w b ≤ paddedRowBytes w b ∧ paddedRowBytes w b ≤ fileSize w h b - 54 ∧
      imageSize w h b < 2 ^ 32 ∧ fileSize w h b < 2 ^ 32 ∧
      (∀ r c, r < h → c < w →
        (b = 24 → 3 * (r * w + c) + 2 < 3 * w * h ∧ 3 * w * h ≤ h * paddedRowBytes w b) ∧
          (b = 1 → r * w + c < w * h ∧ w * h ≤ 8 * rowBytesUnpadded w b * h ∧ 8 * rowBytesUnpadded w b * h < 2 ^ 35))

/-! The contract of an encode (40_commands.md). -/

/-- R129: the length of the image is the file size, and its header's is 62 or 54. -/
def Obligations.ImageHasFileSizeBytes : Prop :=
  ∀ (w h b : Nat) (pix : Nat → Byte), b = 1 ∨ b = 24 →
    (headerBytes w h b).length = headerSize b ∧ (pixelData w h b pix).length = h * paddedRowBytes w b ∧
      (encodeImage w h b pix).length = fileSize w h b

/-- R170, R171: a 1-bit row has `ceil(w / 8)` data bytes, and bit `7 - k` of byte `j` is 1 exactly when column `8j + k`
exists and its sample is `0xFF`. -/
def Obligations.PackedBitIsWhiteColumn : Prop :=
  ∀ (w q j k : Nat) (pix : Nat → Byte), j < (w + 7) / 8 → k < 8 →
    (row1Bytes w pix q).length = (w + 7) / 8 ∧ ∃ v, (row1Bytes w pix q)[j]? = some v ∧
      (v.getLsbD (7 - k) = true ↔ 8 * j + k < w ∧ pix (q * w + (8 * j + k)) = 0xFF#8)

/-- R63, R105, R106, R130: where the format puts the pixels of row `r`, so that a reader gets them back. Row `r` starts at
`HSZ + r * PRB`. At 24 bpp byte `3c + k` of it is B, G, R of column `c`; at 1 bpp byte `j` is the packed byte `j`; the
padding bytes are 0. -/
def Obligations.ImageHoldsEveryPixel : Prop :=
  ∀ (w h r : Nat) (pix : Nat → Byte), 1 ≤ w → r < h →
    (∀ c k, c < w → k < 3 →
      (encodeImage w h 24 pix)[54 + r * paddedRowBytes w 24 + (3 * c + k)]? = some (pix (3 * (r * w + c) + (2 - k)))) ∧
      (∀ j, j < rowBytesUnpadded w 1 →
        (encodeImage w h 1 pix)[62 + r * paddedRowBytes w 1 + j]? = (row1Bytes w pix r)[j]?) ∧
      (∀ b n, b = 1 ∨ b = 24 → n < padding (rowBytesUnpadded w b) →
        (encodeImage w h b pix)[headerSize b + r * paddedRowBytes w b + rowBytesUnpadded w b + n]? = some 0x00#8)

/-- R77: output row `r` depends on the samples of input row `r` only. -/
def Obligations.RowsAreIndependent : Prop :=
  ∀ (w b r : Nat) (pix pix' : Nat → Byte), b = 1 ∨ b = 24 →
    (∀ i, b = 1 → r * w ≤ i → i < r * w + w → pix i = pix' i) →
    (∀ i, b = 24 → 3 * r * w ≤ i → i < 3 * r * w + 3 * w → pix i = pix' i) →
    rowBytes w b pix r = rowBytes w b pix' r

/-! The whole machine. -/

/-- R45, R60: no instruction writes `PIX`, and none changes the platform's memories or the host's list. -/
def Obligations.BlockNeverWritesPix : Prop :=
  ∀ (i : Instr) (s t : State), exec i s = .next t →
    t.pix = s.pix ∧ t.pixSize = s.pixSize ∧ t.outSize = s.outSize ∧ t.host = s.host

/-- R64: `Emit` is the only write to memory. An instruction leaves every byte of `OUT` and `OCUR` (or, an `ENC`, sets
`OCUR` to 0), or it writes the one byte at `OCUR` and adds 1 to `OCUR`; `PK1.SHIFT` emits nothing. R60: while the block is busy
it alone writes `OUT`, so that whatever a step of a busy block is, every byte but the one at `OCUR` stays (that a host's write is
refused there: log entry 16, DEDUCED). -/
def Obligations.OnlyEmitWritesOut : Prop :=
  (∀ (i : Instr) (s t : State), exec i s = .next t →
    ((∀ a, t.outByte a = s.outByte a) ∧ (t.ocur = s.ocur ∨ t.ocur = 0 ∧ ∃ pixlen, i = .enc pixlen)) ∨
      ((∀ a, a ≠ s.ocur.toNat → t.outByte a = s.outByte a) ∧ t.ocur.toNat = s.ocur.toNat + 1 ∧ i ≠ .pk1Shift ∧
        s.phase ≠ .idle)) ∧
    (∀ s t : State, s.phase ≠ .idle → step s = .next t → ∀ a, a ≠ s.ocur.toNat → t.outByte a = s.outByte a)

/-- R29: only a successful `CFG` of an idle block writes the six configuration and derived registers, so no step but a
reset changes them while the block is busy. -/
def Obligations.OnlyCfgWritesConfiguration : Prop :=
  (∀ (i : Instr) (s t : State), exec i s = .next t →
    keepsConfig s t ∨ (s.phase = .idle ∧ t.cfgv = true ∧ t.err = .none ∧ ∃ width height bpp, i = .cfg width height bpp)) ∧
    (∀ s t : State, s.phase ≠ .idle → (∀ rest, s.host ≠ .reset :: rest) → step s = .next t → keepsConfig s t)

/-- R220: no sequencer step raises an error or touches `CFGV` or `PIXLEN`: a step of a busy block that is not a reset
leaves `CFGV`, `ERR` and `PIXLEN`. -/
def Obligations.SequencerStepsRaiseNothing : Prop :=
  ∀ s t : State, s.phase ≠ .idle → (∀ rest, s.host ≠ .reset :: rest) → step s = .next t → keepsCommandRegs s t

/-- R202: the changes of `PHASE` an instruction makes, from any state: by which instruction each is made, and exactly when.
The row of the reset step is `ResetStepClearsRegisters`. -/
def Obligations.PhaseTransitionGraph : Prop :=
  ∀ (i : Instr) (s t : State), exec i s = .next t →
    let pixels : Phase := if s.bpp.toNat = 1 then .pix1 else .pix24
    let afterRow : Phase := if s.row.toNat + 1 = s.height.toNat then .idle else pixels
    let afterData : Phase := if 0 < s.pad.toNat then .padw else afterRow
    match s.phase with
    | .idle =>
      ((∃ width height bpp, i = .cfg width height bpp) ∧ t.phase = .idle) ∨
        ∃ pixlen, i = .enc pixlen ∧
          t.phase = (if required s.width.toNat s.height.toNat s.bpp.toNat ≤ pixlen.toNat then .hdr else .idle)
    | .hdr =>
      (i = .hdrByte ∨ decodeFidx s.fidx = .ok i) ∧
        t.phase =
          (if s.fidx.toNat = lastField s.bpp.toNat ∧ s.bidx.toNat + 1 = fieldSize s.fidx.toNat then pixels else .hdr)
    | .pix1 =>
      (i = .pk1Shift ∧ t.phase = .pix1) ∨
        (i = .pk1Flush ∧ t.phase = (if s.col = s.width then afterData else .pix1))
    | .pix24 =>
      i = .pk24Byte ∧
        t.phase = (if s.ch.toNat = 2 ∧ s.col.toNat + 1 = s.width.toNat then afterData else .pix24)
    | .padw => i = .padByte ∧ t.phase = (if s.pcnt.toNat + 1 < s.pad.toNat then .padw else afterRow)

/-- The invariant (R49 with the canonical form of the memories) holds at reset. -/
def Obligations.InvariantHoldsAtReset : Prop := State.reset.Inv

/-- R49: every step keeps the invariant, whatever the host does. -/
def Obligations.EveryStepKeepsInvariant : Prop := ∀ s t : State, s.Inv → step s = .next t → t.Inv

/-- R62, R69, R128: the index each packer reads is below `Required`, which is at most `PIXLEN`, and the samples at or above
`Required` have no part in any instruction or step: where `PIX` is replaced by contents that agree with it below `Required`,
the same instruction and the same step give the same next state with the other contents in `PIX`. So the excess of a longer
buffer is never read and no read is past the end. -/
def Obligations.ReadsStayBelowRequired : Prop :=
  ∀ s : State, s.Inv →
    let needed := required s.width.toNat s.height.toNat s.bpp.toNat
    (s.phase = .pix1 → s.col.toNat < s.width.toNat → pixelNumber s < needed) ∧
      (s.phase = .pix24 → sampleIndex24 s < needed) ∧ (s.phase ≠ .idle → needed ≤ s.pixlen.toNat) ∧
      ∀ other : List Host.Cell, (∀ n, n < needed → { s with pix := other }.sample n = s.sample n) →
        (∀ (i : Instr) (t : State), exec i s = .next t →
          exec i { s with pix := other } = .next { t with pix := other }) ∧
          (∀ t : State, s.hostStandsBy → step s = .next t →
            step { s with pix := other } = .next { t with pix := other })

/-- R220, R127: a busy block never stops. In every state of the invariant in which the host lets it step, the sequencer
has a next state: no fault, no refusal. -/
def Obligations.BusyBlockNeverStops : Prop :=
  ∀ s : State, s.Inv → s.phase ≠ .idle → s.hostStandsBy → ∃ t, step s = .next t

/-- R129, R200: the step that completes an encode writes its last byte, and leaves the registers as R200 lists them; the
output length is the header size plus the rows, and a row's is a multiple of 4. -/
def Obligations.CompletingStepLeavesFinalState : Prop :=
  ∀ s t : State, s.Inv → s.phase ≠ .idle → s.hostStandsBy → step s = .next t → t.phase = .idle →
    t.done = true ∧ t.err = .none ∧ t.ocur.toNat = s.ocur.toNat + 1 ∧
      t.ocur.toNat = fileSize s.width.toNat s.height.toNat s.bpp.toNat ∧ s.prb.toNat % 4 = 0 ∧ t.row = s.height ∧
      t.col = 0 ∧ t.ch = 0 ∧ t.acc = 0 ∧ t.nbits = 0 ∧ t.pcnt = 0 ∧ t.fidx.toNat = lastField s.bpp.toNat ∧ t.bidx = 0

/-- R127, R160, R175, R182, R201: every sequencer step keeps the bytes emitted so far the first bytes of the contract's
image, and `ACC` the bits of the samples read since the last flush; the image itself does not change. -/
def Obligations.SequencerExtendsImage : Prop :=
  ∀ s t : State, s.Inv → s.phase ≠ .idle → s.hostStandsBy → s.outputOk → s.accOk → step s = .next t →
    t.outputOk ∧ t.accOk ∧ t.image = s.image

/-- R127, R203: from an accepted `ENC`, after `StepCount` sequencer steps, the block is idle with `DONE = 1`, `ERR = 0`,
`OCUR = FileSize` and the contract's image in `OUT`; no other byte of `OUT` and no sample has changed. -/
def Obligations.AcceptedEncProducesImage : Prop :=
  ∀ (s t : State) (pixlen : BitVec 64), s.Inv → s.host = [] → exec (.enc pixlen) s = .next t → t.phase = .hdr →
    ∃ u : State,
      Host.Core.run Sys2Proof.core (stepCount s.width.toNat s.height.toNat s.bpp.toNat) t = .next u ∧
        u.phase = .idle ∧ u.done = true ∧ u.err = .none ∧
        u.ocur.toNat = fileSize s.width.toNat s.height.toNat s.bpp.toNat ∧
        u.result = encodeImage s.width.toNat s.height.toNat s.bpp.toNat s.sample ∧
        (∀ a, fileSize s.width.toNat s.height.toNat s.bpp.toNat ≤ a → u.outByte a = s.outByte a) ∧ u.pix = s.pix
end

