-- ==== Sys2Proof/Laws/Encoding.lean ====
section
/-!
SUPPORT. The fields of a command word: what the decoder reads from the words the encoder makes, and when a row of the
opcode table accepts a command word.
-/

namespace Sys2Proof

theorem extract_append_low {n k : Nat} (x : BitVec n) (y : BitVec k) (start len : Nat) (h : start + len ≤ k) :
    (x ++ y).extractLsb' start len = y.extractLsb' start len := by
  apply BitVec.eq_of_getLsbD_eq
  intro i hi
  simp only [BitVec.getLsbD_extractLsb', BitVec.getLsbD_append]
  rw [if_pos (by omega)]

theorem extract_append_high {n k : Nat} (x : BitVec n) (y : BitVec k) (start len : Nat) (h : k ≤ start) :
    (x ++ y).extractLsb' start len = x.extractLsb' (start - k) len := by
  apply BitVec.eq_of_getLsbD_eq
  intro i hi
  simp only [BitVec.getLsbD_extractLsb', BitVec.getLsbD_append]
  rw [if_neg (by omega), show start + i - k = start - k + i by omega]

theorem extract_whole {n : Nat} (x : BitVec n) : x.extractLsb' 0 n = x := by
  apply BitVec.eq_of_getLsbD_eq
  intro i hi
  simp only [BitVec.getLsbD_extractLsb']
  simp [hi]

@[simp] theorem cmdOpcode_cfgWord (w h : Word) (b : BitVec 16) : cmdOpcode (cfgWord w h b) = 0x01#8 := by
  unfold cmdOpcode cfgWord
  rw [extract_append_high _ _ _ _ (by decide), extract_append_high _ _ _ _ (by decide),
    extract_append_high _ _ _ _ (by decide)]
  decide

@[simp] theorem cmdReservedC_cfgWord (w h : Word) (b : BitVec 16) : cmdReservedC (cfgWord w h b) = 0#8 := by
  unfold cmdReservedC cfgWord
  rw [extract_append_high _ _ _ _ (by decide), extract_append_high _ _ _ _ (by decide),
    extract_append_high _ _ _ _ (by decide)]
  decide

@[simp] theorem cmdBpp_cfgWord (w h : Word) (b : BitVec 16) : cmdBpp (cfgWord w h b) = b := by
  unfold cmdBpp cfgWord
  rw [extract_append_high _ _ _ _ (by decide), extract_append_high _ _ _ _ (by decide),
    extract_append_low _ _ _ _ (by decide)]
  exact extract_whole b

@[simp] theorem cmdHeight_cfgWord (w h : Word) (b : BitVec 16) : cmdHeight (cfgWord w h b) = h := by
  unfold cmdHeight cfgWord
  rw [extract_append_high _ _ _ _ (by decide), extract_append_low _ _ _ _ (by decide)]
  exact extract_whole h

@[simp] theorem cmdWidth_cfgWord (w h : Word) (b : BitVec 16) : cmdWidth (cfgWord w h b) = w := by
  unfold cmdWidth cfgWord
  rw [extract_append_low _ _ _ _ (by decide)]
  exact extract_whole w

@[simp] theorem cmdOpcode_encWord (n : BitVec 64) : cmdOpcode (encWord n) = 0x02#8 := by
  unfold cmdOpcode encWord
  rw [extract_append_high _ _ _ _ (by decide)]
  decide

@[simp] theorem cmdReservedE_encWord (n : BitVec 64) : cmdReservedE (encWord n) = 0#24 := by
  unfold cmdReservedE encWord
  rw [extract_append_high _ _ _ _ (by decide)]
  decide

@[simp] theorem cmdPixlen_encWord (n : BitVec 64) : cmdPixlen (encWord n) = n := by
  unfold cmdPixlen encWord
  rw [extract_append_low _ _ _ _ (by decide)]
  exact extract_whole n

theorem and_mask_shiftLeft (v k m : Nat) : v &&& (m <<< k) = ((v >>> k) &&& m) <<< k := by
  apply Nat.eq_of_testBit_eq
  intro i
  simp only [Nat.testBit_and, Nat.testBit_shiftLeft, Nat.testBit_shiftRight]
  by_cases h : k ≤ i
  · simp [h]
  · simp [h]

/-- The table's row of `CFG` accepts the command words with its opcode and reserved bits zero. -/
theorem cfgRow_accepts (w : CmdWord) (width height : Word) (bpp : BitVec 16) :
    (Instr.cfg width height bpp).row.accepts (.command w) = true ↔ cmdOpcode w = 1#8 ∧ cmdReservedC w = 0#8 := by
  have hm : (0xFFFF00000000000000000000 : Nat) = 0xFFFF <<< 80 := by decide
  have hp : (0x010000000000000000000000 : Nat) = 0x0100 <<< 80 := by decide
  simp only [Instr.row, Row.accepts, Code.space, Code.value, Bool.and_eq_true, beq_iff_eq, true_and]
  rw [hm, hp, and_mask_shiftLeft, show (0xFFFF : Nat) = 2 ^ 16 - 1 by decide, Nat.and_two_pow_sub_one_eq_mod]
  have hw := w.isLt
  unfold cmdOpcode cmdReservedC
  rw [← BitVec.toNat_inj, ← BitVec.toNat_inj]
  simp only [BitVec.extractLsb'_toNat, Nat.shiftRight_eq_div_pow, Nat.shiftLeft_eq]
  simp
  omega

/-- The table's row of `ENC` accepts the command words with its opcode and reserved bits zero. -/
theorem encRow_accepts (w : CmdWord) (pixlen : BitVec 64) :
    (Instr.enc pixlen).row.accepts (.command w) = true ↔ cmdOpcode w = 2#8 ∧ cmdReservedE w = 0#24 := by
  have hm : (0xFFFFFFFF0000000000000000 : Nat) = 0xFFFFFFFF <<< 64 := by decide
  have hp : (0x020000000000000000000000 : Nat) = 0x02000000 <<< 64 := by decide
  simp only [Instr.row, Row.accepts, Code.space, Code.value, Bool.and_eq_true, beq_iff_eq, true_and]
  rw [hm, hp, and_mask_shiftLeft, show (0xFFFFFFFF : Nat) = 2 ^ 32 - 1 by decide, Nat.and_two_pow_sub_one_eq_mod]
  have hw := w.isLt
  unfold cmdOpcode cmdReservedE
  rw [← BitVec.toNat_inj, ← BitVec.toNat_inj]
  simp only [BitVec.extractLsb'_toNat, Nat.shiftRight_eq_div_pow, Nat.shiftLeft_eq]
  simp
  omega

end Sys2Proof
end

