-- ==== Sys2Proof/Laws/Memory.lean ====
section
/-!
SUPPORT. The laws of the two memories: a read after a write, and that every write keeps the canonical form.
-/

namespace Sys2Proof.Machine

@[simp] theorem memRead_nil (a : Nat) : memRead [] a = none := rfl

theorem memRead_cons (b : Nat) (v : Byte) (rest : List Host.Cell) (a : Nat) :
    memRead ((b, v) :: rest) a = if a = b then some v else memRead rest a := rfl

theorem memRead_memWrite (m : List Host.Cell) (a : Nat) (v : Byte) (c : Nat) :
    memRead (memWrite m a v) c = if c = a then some v else memRead m c := by
  induction m with
  | nil => simp [memWrite, memRead]
  | cons cell rest ih =>
    obtain ⟨b, w⟩ := cell
    simp only [memWrite]
    split
    · rw [memRead_cons]
    · split
      · subst b
        simp only [memRead_cons]
        split <;> simp_all
      · rename_i hlt hne
        rw [memRead_cons, memRead_cons, ih]
        by_cases hcb : c = b
        · have hca : c ≠ a := fun h => hne (h.symm.trans hcb)
          simp [hcb]
          omega
        · simp [hcb]

@[simp] theorem memRead_memWrite_same (m : List Host.Cell) (a : Nat) (v : Byte) :
    memRead (memWrite m a v) a = some v := by
  rw [memRead_memWrite]; simp

theorem memRead_memWrite_other (m : List Host.Cell) (a : Nat) (v : Byte) (c : Nat) (h : c ≠ a) :
    memRead (memWrite m a v) c = memRead m c := by
  rw [memRead_memWrite]; simp [h]

theorem memRising_memWrite (m : List Host.Cell) (a : Nat) (v : Byte) (lo hi : Nat) (hlo : lo ≤ a) (hhi : a < hi)
    (h : memRising lo hi m = true) : memRising lo hi (memWrite m a v) = true := by
  induction m generalizing lo with
  | nil => simp [memWrite, memRising, hlo, hhi]
  | cons cell rest ih =>
    obtain ⟨b, w⟩ := cell
    simp only [memRising, Bool.and_eq_true, decide_eq_true_eq] at h
    simp only [memWrite]
    split
    · rename_i hab
      simp only [memRising, Bool.and_eq_true, decide_eq_true_eq]
      exact ⟨⟨hlo, hhi⟩, ⟨hab, h.1.2⟩, h.2⟩
    · split
      · subst b
        simp only [memRising, Bool.and_eq_true, decide_eq_true_eq]
        exact ⟨⟨hlo, hhi⟩, h.2⟩
      · simp only [memRising, Bool.and_eq_true, decide_eq_true_eq]
        exact ⟨h.1, ih (b + 1) (by omega) h.2⟩

/-- A write within the backed cells keeps the canonical form. -/
theorem memWf_memWrite (size : Nat) (m : List Host.Cell) (a : Nat) (v : Byte) (ha : a < size)
    (h : Memory.wf size m = true) : Memory.wf size (memWrite m a v) = true :=
  memRising_memWrite m a v 0 size (Nat.zero_le a) ha h

theorem memRead_none_of_rising (m : List Host.Cell) (lo hi a : Nat) (ha : a < lo ∨ hi ≤ a)
    (h : memRising lo hi m = true) : memRead m a = none := by
  induction m generalizing lo with
  | nil => rfl
  | cons cell rest ih =>
    obtain ⟨b, w⟩ := cell
    simp only [memRising, Bool.and_eq_true, decide_eq_true_eq] at h
    have hab : a ≠ b := by omega
    rw [memRead_cons, if_neg hab]
    exact ih (b + 1) (by omega) h.2

/-- Two canonical memories that read alike are the same list. -/
theorem memWf_ext (size : Nat) (m n : List Host.Cell) (hm : Memory.wf size m = true) (hn : Memory.wf size n = true)
    (h : ∀ a, memRead m a = memRead n a) : m = n := by
  suffices ∀ lo, memRising lo size m = true → memRising lo size n = true → m = n from this 0 hm hn
  clear hm hn
  induction m generalizing n with
  | nil =>
    intro lo _ _
    cases n with
    | nil => rfl
    | cons cell rest =>
      have := h cell.1
      simp [memRead] at this
  | cons cell rest ih =>
    intro lo hm hn
    obtain ⟨a, v⟩ := cell
    cases n with
    | nil =>
      have := h a
      simp [memRead] at this
    | cons cell' rest' =>
      obtain ⟨b, w⟩ := cell'
      simp only [memRising, Bool.and_eq_true, decide_eq_true_eq] at hm hn
      have hab : a = b := by
        rcases Nat.lt_trichotomy a b with hlt | heq | hgt
        · have h1 := h a
          rw [memRead_cons, if_pos rfl, memRead_cons, if_neg (by omega),
            memRead_none_of_rising rest' (b + 1) size a (by omega) hn.2] at h1
          cases h1
        · exact heq
        · have h1 := h b
          rw [memRead_cons, if_neg (by omega), memRead_cons, if_pos rfl,
            memRead_none_of_rising rest (a + 1) size b (by omega) hm.2] at h1
          cases h1
      subst hab
      have hv := h a
      rw [memRead_cons, if_pos rfl, memRead_cons, if_pos rfl] at hv
      obtain rfl : v = w := by injection hv
      congr 1
      refine ih rest' (fun c => ?_) (a + 1) hm.2 hn.2
      by_cases hc : c = a
      · subst hc
        rw [memRead_none_of_rising rest (c + 1) size c (by omega) hm.2,
          memRead_none_of_rising rest' (c + 1) size c (by omega) hn.2]
      · have h1 := h c
        rwa [memRead_cons, if_neg hc, memRead_cons, if_neg hc] at h1

end Sys2Proof.Machine
end

