-- ==== Sys2Proof/Laws/State.lean ====
section
/-!
SUPPORT. One lemma per field for each named update of the state, true by rfl, so that no proof unfolds a record update.
-/

namespace Sys2Proof.Machine

@[simp] theorem configure_width (w h : Word) (b : BitVec 16) (s : State) : (configure w h b s).width = w := rfl
@[simp] theorem configure_height (w h : Word) (b : BitVec 16) (s : State) : (configure w h b s).height = h := rfl
@[simp] theorem configure_bpp (w h : Word) (b : BitVec 16) (s : State) : (configure w h b s).bpp = b := rfl
@[simp] theorem configure_rbu (w h : Word) (b : BitVec 16) (s : State) : (configure w h b s).rbu = BitVec.ofNat 32 (rowBytesUnpadded w.toNat b.toNat) := rfl
@[simp] theorem configure_pad (w h : Word) (b : BitVec 16) (s : State) : (configure w h b s).pad = BitVec.ofNat 2 (padding (rowBytesUnpadded w.toNat b.toNat)) := rfl
@[simp] theorem configure_prb (w h : Word) (b : BitVec 16) (s : State) : (configure w h b s).prb = BitVec.ofNat 32 (paddedRowBytes w.toNat b.toNat) := rfl
@[simp] theorem configure_phase (w h : Word) (b : BitVec 16) (s : State) : (configure w h b s).phase = s.phase := rfl
@[simp] theorem configure_cfgv (w h : Word) (b : BitVec 16) (s : State) : (configure w h b s).cfgv = true := rfl
@[simp] theorem configure_done (w h : Word) (b : BitVec 16) (s : State) : (configure w h b s).done = s.done := rfl
@[simp] theorem configure_err (w h : Word) (b : BitVec 16) (s : State) : (configure w h b s).err = .none := rfl
@[simp] theorem configure_ocur (w h : Word) (b : BitVec 16) (s : State) : (configure w h b s).ocur = s.ocur := rfl
@[simp] theorem configure_pixlen (w h : Word) (b : BitVec 16) (s : State) : (configure w h b s).pixlen = s.pixlen := rfl
@[simp] theorem configure_fidx (w h : Word) (b : BitVec 16) (s : State) : (configure w h b s).fidx = s.fidx := rfl
@[simp] theorem configure_bidx (w h : Word) (b : BitVec 16) (s : State) : (configure w h b s).bidx = s.bidx := rfl
@[simp] theorem configure_row (w h : Word) (b : BitVec 16) (s : State) : (configure w h b s).row = s.row := rfl
@[simp] theorem configure_col (w h : Word) (b : BitVec 16) (s : State) : (configure w h b s).col = s.col := rfl
@[simp] theorem configure_ch (w h : Word) (b : BitVec 16) (s : State) : (configure w h b s).ch = s.ch := rfl
@[simp] theorem configure_acc (w h : Word) (b : BitVec 16) (s : State) : (configure w h b s).acc = s.acc := rfl
@[simp] theorem configure_nbits (w h : Word) (b : BitVec 16) (s : State) : (configure w h b s).nbits = s.nbits := rfl
@[simp] theorem configure_pcnt (w h : Word) (b : BitVec 16) (s : State) : (configure w h b s).pcnt = s.pcnt := rfl
@[simp] theorem configure_pix (w h : Word) (b : BitVec 16) (s : State) : (configure w h b s).pix = s.pix := rfl
@[simp] theorem configure_out (w h : Word) (b : BitVec 16) (s : State) : (configure w h b s).out = s.out := rfl
@[simp] theorem configure_pixSize (w h : Word) (b : BitVec 16) (s : State) : (configure w h b s).pixSize = s.pixSize := rfl
@[simp] theorem configure_outSize (w h : Word) (b : BitVec 16) (s : State) : (configure w h b s).outSize = s.outSize := rfl
@[simp] theorem configure_host (w h : Word) (b : BitVec 16) (s : State) : (configure w h b s).host = s.host := rfl

@[simp] theorem startEncode_width (p : BitVec 64) (s : State) : (startEncode p s).width = s.width := rfl
@[simp] theorem startEncode_height (p : BitVec 64) (s : State) : (startEncode p s).height = s.height := rfl
@[simp] theorem startEncode_bpp (p : BitVec 64) (s : State) : (startEncode p s).bpp = s.bpp := rfl
@[simp] theorem startEncode_rbu (p : BitVec 64) (s : State) : (startEncode p s).rbu = s.rbu := rfl
@[simp] theorem startEncode_pad (p : BitVec 64) (s : State) : (startEncode p s).pad = s.pad := rfl
@[simp] theorem startEncode_prb (p : BitVec 64) (s : State) : (startEncode p s).prb = s.prb := rfl
@[simp] theorem startEncode_phase (p : BitVec 64) (s : State) : (startEncode p s).phase = .hdr := rfl
@[simp] theorem startEncode_cfgv (p : BitVec 64) (s : State) : (startEncode p s).cfgv = s.cfgv := rfl
@[simp] theorem startEncode_done (p : BitVec 64) (s : State) : (startEncode p s).done = s.done := rfl
@[simp] theorem startEncode_err (p : BitVec 64) (s : State) : (startEncode p s).err = .none := rfl
@[simp] theorem startEncode_ocur (p : BitVec 64) (s : State) : (startEncode p s).ocur = s.ocur := rfl
@[simp] theorem startEncode_pixlen (p : BitVec 64) (s : State) : (startEncode p s).pixlen = p := rfl
@[simp] theorem startEncode_fidx (p : BitVec 64) (s : State) : (startEncode p s).fidx = 0 := rfl
@[simp] theorem startEncode_bidx (p : BitVec 64) (s : State) : (startEncode p s).bidx = 0 := rfl
@[simp] theorem startEncode_row (p : BitVec 64) (s : State) : (startEncode p s).row = 0 := rfl
@[simp] theorem startEncode_col (p : BitVec 64) (s : State) : (startEncode p s).col = 0 := rfl
@[simp] theorem startEncode_ch (p : BitVec 64) (s : State) : (startEncode p s).ch = 0 := rfl
@[simp] theorem startEncode_acc (p : BitVec 64) (s : State) : (startEncode p s).acc = 0 := rfl
@[simp] theorem startEncode_nbits (p : BitVec 64) (s : State) : (startEncode p s).nbits = 0 := rfl
@[simp] theorem startEncode_pcnt (p : BitVec 64) (s : State) : (startEncode p s).pcnt = 0 := rfl
@[simp] theorem startEncode_pix (p : BitVec 64) (s : State) : (startEncode p s).pix = s.pix := rfl
@[simp] theorem startEncode_out (p : BitVec 64) (s : State) : (startEncode p s).out = s.out := rfl
@[simp] theorem startEncode_pixSize (p : BitVec 64) (s : State) : (startEncode p s).pixSize = s.pixSize := rfl
@[simp] theorem startEncode_outSize (p : BitVec 64) (s : State) : (startEncode p s).outSize = s.outSize := rfl
@[simp] theorem startEncode_host (p : BitVec 64) (s : State) : (startEncode p s).host = s.host := rfl

@[simp] theorem raiseUnsupportedFormat_width (s : State) : (raise .unsupportedFormat s).width = s.width := rfl
@[simp] theorem raiseUnsupportedFormat_height (s : State) : (raise .unsupportedFormat s).height = s.height := rfl
@[simp] theorem raiseUnsupportedFormat_bpp (s : State) : (raise .unsupportedFormat s).bpp = s.bpp := rfl
@[simp] theorem raiseUnsupportedFormat_rbu (s : State) : (raise .unsupportedFormat s).rbu = s.rbu := rfl
@[simp] theorem raiseUnsupportedFormat_pad (s : State) : (raise .unsupportedFormat s).pad = s.pad := rfl
@[simp] theorem raiseUnsupportedFormat_prb (s : State) : (raise .unsupportedFormat s).prb = s.prb := rfl
@[simp] theorem raiseUnsupportedFormat_phase (s : State) : (raise .unsupportedFormat s).phase = s.phase := rfl
@[simp] theorem raiseUnsupportedFormat_cfgv (s : State) : (raise .unsupportedFormat s).cfgv = false := rfl
@[simp] theorem raiseUnsupportedFormat_done (s : State) : (raise .unsupportedFormat s).done = s.done := rfl
@[simp] theorem raiseUnsupportedFormat_err (s : State) : (raise .unsupportedFormat s).err = .unsupportedFormat := rfl
@[simp] theorem raiseUnsupportedFormat_ocur (s : State) : (raise .unsupportedFormat s).ocur = s.ocur := rfl
@[simp] theorem raiseUnsupportedFormat_pixlen (s : State) : (raise .unsupportedFormat s).pixlen = s.pixlen := rfl
@[simp] theorem raiseUnsupportedFormat_fidx (s : State) : (raise .unsupportedFormat s).fidx = s.fidx := rfl
@[simp] theorem raiseUnsupportedFormat_bidx (s : State) : (raise .unsupportedFormat s).bidx = s.bidx := rfl
@[simp] theorem raiseUnsupportedFormat_row (s : State) : (raise .unsupportedFormat s).row = s.row := rfl
@[simp] theorem raiseUnsupportedFormat_col (s : State) : (raise .unsupportedFormat s).col = s.col := rfl
@[simp] theorem raiseUnsupportedFormat_ch (s : State) : (raise .unsupportedFormat s).ch = s.ch := rfl
@[simp] theorem raiseUnsupportedFormat_acc (s : State) : (raise .unsupportedFormat s).acc = s.acc := rfl
@[simp] theorem raiseUnsupportedFormat_nbits (s : State) : (raise .unsupportedFormat s).nbits = s.nbits := rfl
@[simp] theorem raiseUnsupportedFormat_pcnt (s : State) : (raise .unsupportedFormat s).pcnt = s.pcnt := rfl
@[simp] theorem raiseUnsupportedFormat_pix (s : State) : (raise .unsupportedFormat s).pix = s.pix := rfl
@[simp] theorem raiseUnsupportedFormat_out (s : State) : (raise .unsupportedFormat s).out = s.out := rfl
@[simp] theorem raiseUnsupportedFormat_pixSize (s : State) : (raise .unsupportedFormat s).pixSize = s.pixSize := rfl
@[simp] theorem raiseUnsupportedFormat_outSize (s : State) : (raise .unsupportedFormat s).outSize = s.outSize := rfl
@[simp] theorem raiseUnsupportedFormat_host (s : State) : (raise .unsupportedFormat s).host = s.host := rfl

@[simp] theorem raiseOutOfBounds_width (s : State) : (raise .outOfBounds s).width = s.width := rfl
@[simp] theorem raiseOutOfBounds_height (s : State) : (raise .outOfBounds s).height = s.height := rfl
@[simp] theorem raiseOutOfBounds_bpp (s : State) : (raise .outOfBounds s).bpp = s.bpp := rfl
@[simp] theorem raiseOutOfBounds_rbu (s : State) : (raise .outOfBounds s).rbu = s.rbu := rfl
@[simp] theorem raiseOutOfBounds_pad (s : State) : (raise .outOfBounds s).pad = s.pad := rfl
@[simp] theorem raiseOutOfBounds_prb (s : State) : (raise .outOfBounds s).prb = s.prb := rfl
@[simp] theorem raiseOutOfBounds_phase (s : State) : (raise .outOfBounds s).phase = s.phase := rfl
@[simp] theorem raiseOutOfBounds_cfgv (s : State) : (raise .outOfBounds s).cfgv = s.cfgv := rfl
@[simp] theorem raiseOutOfBounds_done (s : State) : (raise .outOfBounds s).done = s.done := rfl
@[simp] theorem raiseOutOfBounds_err (s : State) : (raise .outOfBounds s).err = .outOfBounds := rfl
@[simp] theorem raiseOutOfBounds_ocur (s : State) : (raise .outOfBounds s).ocur = s.ocur := rfl
@[simp] theorem raiseOutOfBounds_pixlen (s : State) : (raise .outOfBounds s).pixlen = s.pixlen := rfl
@[simp] theorem raiseOutOfBounds_fidx (s : State) : (raise .outOfBounds s).fidx = s.fidx := rfl
@[simp] theorem raiseOutOfBounds_bidx (s : State) : (raise .outOfBounds s).bidx = s.bidx := rfl
@[simp] theorem raiseOutOfBounds_row (s : State) : (raise .outOfBounds s).row = s.row := rfl
@[simp] theorem raiseOutOfBounds_col (s : State) : (raise .outOfBounds s).col = s.col := rfl
@[simp] theorem raiseOutOfBounds_ch (s : State) : (raise .outOfBounds s).ch = s.ch := rfl
@[simp] theorem raiseOutOfBounds_acc (s : State) : (raise .outOfBounds s).acc = s.acc := rfl
@[simp] theorem raiseOutOfBounds_nbits (s : State) : (raise .outOfBounds s).nbits = s.nbits := rfl
@[simp] theorem raiseOutOfBounds_pcnt (s : State) : (raise .outOfBounds s).pcnt = s.pcnt := rfl
@[simp] theorem raiseOutOfBounds_pix (s : State) : (raise .outOfBounds s).pix = s.pix := rfl
@[simp] theorem raiseOutOfBounds_out (s : State) : (raise .outOfBounds s).out = s.out := rfl
@[simp] theorem raiseOutOfBounds_pixSize (s : State) : (raise .outOfBounds s).pixSize = s.pixSize := rfl
@[simp] theorem raiseOutOfBounds_outSize (s : State) : (raise .outOfBounds s).outSize = s.outSize := rfl
@[simp] theorem raiseOutOfBounds_host (s : State) : (raise .outOfBounds s).host = s.host := rfl

@[simp] theorem shiftIn_width (v : Byte) (s : State) : (shiftIn v s).width = s.width := rfl
@[simp] theorem shiftIn_height (v : Byte) (s : State) : (shiftIn v s).height = s.height := rfl
@[simp] theorem shiftIn_bpp (v : Byte) (s : State) : (shiftIn v s).bpp = s.bpp := rfl
@[simp] theorem shiftIn_rbu (v : Byte) (s : State) : (shiftIn v s).rbu = s.rbu := rfl
@[simp] theorem shiftIn_pad (v : Byte) (s : State) : (shiftIn v s).pad = s.pad := rfl
@[simp] theorem shiftIn_prb (v : Byte) (s : State) : (shiftIn v s).prb = s.prb := rfl
@[simp] theorem shiftIn_phase (v : Byte) (s : State) : (shiftIn v s).phase = s.phase := rfl
@[simp] theorem shiftIn_cfgv (v : Byte) (s : State) : (shiftIn v s).cfgv = s.cfgv := rfl
@[simp] theorem shiftIn_done (v : Byte) (s : State) : (shiftIn v s).done = s.done := rfl
@[simp] theorem shiftIn_err (v : Byte) (s : State) : (shiftIn v s).err = s.err := rfl
@[simp] theorem shiftIn_ocur (v : Byte) (s : State) : (shiftIn v s).ocur = s.ocur := rfl
@[simp] theorem shiftIn_pixlen (v : Byte) (s : State) : (shiftIn v s).pixlen = s.pixlen := rfl
@[simp] theorem shiftIn_fidx (v : Byte) (s : State) : (shiftIn v s).fidx = s.fidx := rfl
@[simp] theorem shiftIn_bidx (v : Byte) (s : State) : (shiftIn v s).bidx = s.bidx := rfl
@[simp] theorem shiftIn_row (v : Byte) (s : State) : (shiftIn v s).row = s.row := rfl
@[simp] theorem shiftIn_col (v : Byte) (s : State) : (shiftIn v s).col = BitVec.ofNat 32 (s.col.toNat + 1) := rfl
@[simp] theorem shiftIn_ch (v : Byte) (s : State) : (shiftIn v s).ch = s.ch := rfl
@[simp] theorem shiftIn_acc (v : Byte) (s : State) : (shiftIn v s).acc = (s.acc <<< 1) ||| (bit1 v).setWidth 8 := rfl
@[simp] theorem shiftIn_nbits (v : Byte) (s : State) : (shiftIn v s).nbits = BitVec.ofNat 4 (s.nbits.toNat + 1) := rfl
@[simp] theorem shiftIn_pcnt (v : Byte) (s : State) : (shiftIn v s).pcnt = s.pcnt := rfl
@[simp] theorem shiftIn_pix (v : Byte) (s : State) : (shiftIn v s).pix = s.pix := rfl
@[simp] theorem shiftIn_out (v : Byte) (s : State) : (shiftIn v s).out = s.out := rfl
@[simp] theorem shiftIn_pixSize (v : Byte) (s : State) : (shiftIn v s).pixSize = s.pixSize := rfl
@[simp] theorem shiftIn_outSize (v : Byte) (s : State) : (shiftIn v s).outSize = s.outSize := rfl
@[simp] theorem shiftIn_host (v : Byte) (s : State) : (shiftIn v s).host = s.host := rfl

@[simp] theorem resetRegisters_width (s : State) : (resetRegisters s).width = 0 := rfl
@[simp] theorem resetRegisters_height (s : State) : (resetRegisters s).height = 0 := rfl
@[simp] theorem resetRegisters_bpp (s : State) : (resetRegisters s).bpp = 0 := rfl
@[simp] theorem resetRegisters_rbu (s : State) : (resetRegisters s).rbu = 0 := rfl
@[simp] theorem resetRegisters_pad (s : State) : (resetRegisters s).pad = 0 := rfl
@[simp] theorem resetRegisters_prb (s : State) : (resetRegisters s).prb = 0 := rfl
@[simp] theorem resetRegisters_phase (s : State) : (resetRegisters s).phase = .idle := rfl
@[simp] theorem resetRegisters_cfgv (s : State) : (resetRegisters s).cfgv = false := rfl
@[simp] theorem resetRegisters_done (s : State) : (resetRegisters s).done = false := rfl
@[simp] theorem resetRegisters_err (s : State) : (resetRegisters s).err = .none := rfl
@[simp] theorem resetRegisters_ocur (s : State) : (resetRegisters s).ocur = 0 := rfl
@[simp] theorem resetRegisters_pixlen (s : State) : (resetRegisters s).pixlen = 0 := rfl
@[simp] theorem resetRegisters_fidx (s : State) : (resetRegisters s).fidx = 0 := rfl
@[simp] theorem resetRegisters_bidx (s : State) : (resetRegisters s).bidx = 0 := rfl
@[simp] theorem resetRegisters_row (s : State) : (resetRegisters s).row = 0 := rfl
@[simp] theorem resetRegisters_col (s : State) : (resetRegisters s).col = 0 := rfl
@[simp] theorem resetRegisters_ch (s : State) : (resetRegisters s).ch = 0 := rfl
@[simp] theorem resetRegisters_acc (s : State) : (resetRegisters s).acc = 0 := rfl
@[simp] theorem resetRegisters_nbits (s : State) : (resetRegisters s).nbits = 0 := rfl
@[simp] theorem resetRegisters_pcnt (s : State) : (resetRegisters s).pcnt = 0 := rfl
@[simp] theorem resetRegisters_pix (s : State) : (resetRegisters s).pix = s.pix := rfl
@[simp] theorem resetRegisters_out (s : State) : (resetRegisters s).out = s.out := rfl
@[simp] theorem resetRegisters_pixSize (s : State) : (resetRegisters s).pixSize = s.pixSize := rfl
@[simp] theorem resetRegisters_outSize (s : State) : (resetRegisters s).outSize = s.outSize := rfl
@[simp] theorem resetRegisters_host (s : State) : (resetRegisters s).host = s.host := rfl

end Sys2Proof.Machine
end

