-- ==== Sys2Proof/Laws/Ops.lean ====
section
/-!
SUPPORT. For each shared operation, one lemma that says everything it can do: when it answers a next state, and which.
-/

namespace Sys2Proof.Machine

/-- The next state a result gives, read from right to left. -/
theorem next_eq_next {a t : State} : (Host.Outcome.next a : Result) = .next t ↔ t = a :=
  ⟨fun h => by cases h; rfl, fun h => by rw [h]⟩

theorem andThen_next {r : Result} {f : State → Result} {t : State} :
    andThen r f = .next t ↔ ∃ s, r = .next s ∧ f s = .next t := by
  cases r <;> simp [andThen]

@[simp] theorem andThen_next_left (s : State) (f : State → Result) : andThen (.next s) f = f s := rfl

/-- The state an `Emit` leaves. -/
abbrev emitted (b : Byte) (s : State) : State :=
  { s with out := memWrite s.out s.ocur.toNat b, ocur := BitVec.ofNat 32 (s.ocur.toNat + 1) }

/-- `Emit` answers a next state exactly where the byte is backed and `OCUR + 1` fits. -/
theorem emit_next {b : Byte} {s t : State} :
    emit b s = .next t ↔ s.ocur.toNat < s.outSize ∧ s.ocur.toNat + 1 < wordSpan ∧ t = emitted b s := by
  unfold emit
  split
  · split
    · simp_all [eq_comm]
    · simp_all
  · simp_all

theorem emit_eq {b : Byte} {s : State} (h : s.ocur.toNat < s.outSize) (h' : s.ocur.toNat + 1 < wordSpan) :
    emit b s = .next (emitted b s) := emit_next.mpr ⟨h, h', rfl⟩

/-- `PixRead` goes on exactly where the sample is admitted and backed. -/
theorem pixRead_next {i : Nat} {s t : State} {use : Byte → Result} :
    pixRead i s use = .next t ↔ i < s.pixlen.toNat ∧ i < s.pixSize ∧ use (s.sample i) = .next t := by
  unfold pixRead
  split
  · split <;> simp_all
  · simp_all

theorem pixRead_eq {i : Nat} {s : State} {use : Byte → Result} (h : i < s.pixlen.toNat) (h' : i < s.pixSize) :
    pixRead i s use = use (s.sample i) := by
  simp [pixRead, h, h']

/-- The state `NextRow` leaves. -/
abbrev rowAfter (s : State) : State :=
  if s.row.toNat + 1 = s.height.toNat then
    { s with col := 0, row := BitVec.ofNat 32 (s.row.toNat + 1), phase := .idle, done := true }
  else { s with col := 0, row := BitVec.ofNat 32 (s.row.toNat + 1), phase := pixelPhase s.bpp }

/-- `NextRow` answers a next state exactly where `ROW + 1` fits. -/
theorem nextRow_next {s t : State} : nextRow s = .next t ↔ s.row.toNat + 1 < wordSpan ∧ t = rowAfter s := by
  unfold nextRow rowAfter
  split
  · split <;> simp_all [eq_comm]
  · simp_all

/-- `EndRowData` goes to the padding writer or to `NextRow`. -/
theorem endRowData_next {s t : State} :
    endRowData s = .next t ↔
      (0 < s.pad.toNat ∧ t = { s with phase := .padw, pcnt := 0 }) ∨
        (s.pad.toNat = 0 ∧ s.row.toNat + 1 < wordSpan ∧ t = rowAfter s) := by
  unfold endRowData
  split
  · rename_i h
    simp [h, Nat.ne_of_gt h, eq_comm]
  · rename_i h
    rw [nextRow_next]
    simp [Nat.eq_zero_of_not_pos h]

/-- Reading `OUT` after an `Emit`. -/
theorem outByte_emitted (b : Byte) (s : State) (a : Nat) :
    (emitted b s).outByte a = if a = s.ocur.toNat then b else s.outByte a := by
  unfold State.outByte
  rw [memRead_memWrite]
  split <;> simp

@[simp] theorem ocur_ofNat_toNat {n : Nat} (h : n < wordSpan) : (BitVec.ofNat 32 n).toNat = n := by
  simp only [BitVec.toNat_ofNat]
  exact Nat.mod_eq_of_lt h

end Sys2Proof.Machine
end

