-- ==== Sys2Proof/Laws/Exec.lean ====
section
/-!
SUPPORT. What each meaning can do, said once: when it answers a next state, and which. `exec_cases` says it of all
instructions together, `step_cases` of a step.
-/

namespace Sys2Proof.Machine

theorem execCfg_next {w h : Word} {b : BitVec 16} {s t : State} :
    execCfg w h b s = .next t ↔
      s.phase = .idle ∧ inDomain w.toNat h.toNat b.toNat = true ∧
        ((depthSupported b.toNat = true ∧ t = configure w h b s) ∨
          (depthSupported b.toNat = false ∧ t = raise .unsupportedFormat s)) := by
  unfold execCfg
  split
  · split
    · split
      · rename_i hp hd hs
        simp only [hp, hd, hs, next_eq_next, true_and, Bool.true_eq_false, false_and, or_false]
      · rename_i hp hd hs
        simp only [hp, hd, Bool.eq_false_iff.mpr hs, next_eq_next, true_and, Bool.false_eq_true, false_and, false_or]
    · simp_all
  · simp_all

theorem execEnc_next {n : BitVec 64} {s t : State} :
    execEnc n s = .next t ↔
      s.phase = .idle ∧ s.cfgv = true ∧ n.toNat ≤ s.pixSize ∧ s.fileBytes ≤ s.outSize ∧
        ((n.toNat < s.requiredSamples ∧ t = raise .outOfBounds { s with done := false, ocur := 0 }) ∨
          (s.requiredSamples ≤ n.toNat ∧ t = startEncode n { s with done := false, ocur := 0 })) := by
  unfold execEnc
  split
  · split
    · split
      · rename_i hp hc hm
        split
        · rename_i hl
          simp only [hp, hc, hm.1, hm.2, hl, Nat.not_le_of_lt hl, next_eq_next, true_and, false_and, or_false]
        · rename_i hl
          simp only [hp, hc, hm.1, hm.2, hl, Nat.not_lt.mp hl, next_eq_next, true_and, false_and, false_or]
      · rename_i hm
        simp only [reduceCtorEq, false_iff]
        exact fun h => hm ⟨h.2.2.1, h.2.2.2.1⟩
    · simp_all
  · simp_all

/-- A step of the header serializer: the state it leaves is that of the tail after the emitted lane. -/
theorem emitField_next {k v : Nat} {s t : State} :
    emitField k v s = .next t ↔
      s.phase = .hdr ∧ s.fidx.toNat = k ∧ s.bidx.toNat < fieldSize k ∧ s.ocur.toNat < s.outSize ∧
        s.ocur.toNat + 1 < wordSpan ∧ t = advanceHeader (fieldSize k) (emitted (lane v s.bidx.toNat) s) := by
  unfold emitField
  split
  · split
    · rw [andThen_next]
      constructor
      · rintro ⟨r, hr, hf⟩
        obtain ⟨h1, h2, rfl⟩ := emit_next.mp hr
        cases hf
        simp_all
      · rintro ⟨-, -, -, h1, h2, rfl⟩
        exact ⟨_, emit_eq h1 h2, rfl⟩
    · simp_all
  · rename_i h
    simp only [reduceCtorEq, false_iff]
    rintro ⟨h1, h2, -⟩
    exact h ⟨h1, h2⟩

/-- The value of field `k` as the registers give it (R142 to R158). -/
def registerValue (s : State) (k : Nat) : Nat :=
  match k with
  | 0 => 0x4D42
  | 1 => s.fileBytes
  | 3 => headerSize s.bpp.toNat
  | 4 => 40
  | 5 => s.width.toNat
  | 6 => wordSpan - s.height.toNat
  | 7 => 1
  | 8 => s.bpp.toNat
  | 10 => s.imageBytes
  | 13 => if s.bpp = 1#16 then 2 else 0
  | 14 => if s.bpp = 1#16 then 2 else 0
  | 16 => 0x00FFFFFF
  | _ => 0

/-- `HDR.BYTE` is the serializer's step with the field `FIDX` selects, which for a palette field needs 1 bpp. -/
theorem execHdrByte_next {s t : State} :
    execHdrByte s = .next t ↔
      s.fidx.toNat ≤ 16 ∧ (15 ≤ s.fidx.toNat → s.bpp = 1#16) ∧
        emitField s.fidx.toNat (registerValue s s.fidx.toNat) s = .next t := by
  by_cases hp : s.phase = .hdr
  · have hlt := s.fidx.isLt
    unfold execHdrByte
    rw [if_pos hp]
    split
    all_goals try (rename_i hf; rw [hf]; simp [execHfMagic, execHfFsize, execHfRsvd, execHfDoff, execHfDibsz,
      execHfWidth, execHfHeight, execHfPlanes, execHfBpp, execHfComp, execHfIsize, execHfXres, execHfYres, execHfNcol,
      execHfNimp, registerValue])
    · simp only [execHfPal0, emitPalette]
      split <;> simp_all
    · simp only [execHfPal1, emitPalette]
      split <;> simp_all
    · rename_i h0 h1 h2 h3 h4 h5 h6 h7 h8 h9 h10 h11 h12 h13 h14 h15 h16
      simp only [reduceCtorEq, false_iff]
      rintro ⟨h, -⟩
      interval_cases s.fidx.toNat <;> contradiction
  · have h1 : execHdrByte s = .refused .notSelected := by unfold execHdrByte; rw [if_neg hp]
    have h2 : ∀ k v, emitField k v s ≠ .next t := fun k v h => hp (emitField_next.mp h).1
    simp [h1, h2]

theorem execPk1Shift_next {s t : State} :
    execPk1Shift s = .next t ↔
      s.phase = .pix1 ∧ s.nbits.toNat < 8 ∧ s.col.toNat < s.width.toNat ∧ pixelNumber s < s.pixlen.toNat ∧
        pixelNumber s < s.pixSize ∧ t = shiftIn (s.sample (pixelNumber s)) s := by
  unfold execPk1Shift
  split
  · rw [pixRead_next]
    simp_all [eq_comm]
  · rename_i h
    simp only [reduceCtorEq, false_iff]
    rintro ⟨h1, h2, h3, -⟩
    exact h ⟨h1, h2, h3⟩

/-- The state after the byte of a flush, before the row may end. -/
abbrev flushed (s : State) : State := { emitted (flushByte s) s with acc := 0, nbits := 0 }

theorem execPk1Flush_next {s t : State} :
    execPk1Flush s = .next t ↔
      s.phase = .pix1 ∧ s.flush = true ∧ s.nbits.toNat ≤ 8 ∧ s.ocur.toNat < s.outSize ∧ s.ocur.toNat + 1 < wordSpan ∧
        ((s.col = s.width ∧ endRowData (flushed s) = .next t) ∨ (s.col ≠ s.width ∧ t = flushed s)) := by
  unfold execPk1Flush
  split
  · split
    · rw [andThen_next]
      constructor
      · rintro ⟨r, hr, hf⟩
        obtain ⟨h1, h2, rfl⟩ := emit_next.mp hr
        refine ⟨by simp_all, by simp_all, by assumption, h1, h2, ?_⟩
        split at hf
        · exact .inl ⟨by assumption, hf⟩
        · exact .inr ⟨by assumption, next_eq_next.mp hf⟩
      · rintro ⟨-, -, -, h1, h2, h | ⟨h, rfl⟩⟩
        · exact ⟨_, emit_eq h1 h2, by rw [if_pos h.1]; exact h.2⟩
        · exact ⟨_, emit_eq h1 h2, by rw [if_neg h]⟩
    · simp_all
  · rename_i h
    simp only [reduceCtorEq, false_iff]
    rintro ⟨h1, h2, -⟩
    exact h ⟨h1, h2⟩

theorem advancePixel_next {s t : State} :
    advancePixel s = .next t ↔
      (s.ch.toNat < 2 ∧ t = { s with ch := BitVec.ofNat 2 (s.ch.toNat + 1) }) ∨
        (2 ≤ s.ch.toNat ∧ s.col.toNat + 1 < wordSpan ∧
          ((s.col.toNat + 1 = s.width.toNat ∧
              endRowData { s with ch := 0, col := BitVec.ofNat 32 (s.col.toNat + 1) } = .next t) ∨
            (s.col.toNat + 1 ≠ s.width.toNat ∧ t = { s with ch := 0, col := BitVec.ofNat 32 (s.col.toNat + 1) }))) := by
  unfold advancePixel
  split
  · rename_i h
    simp only [h, Nat.not_le_of_lt h, next_eq_next, true_and, false_and, or_false]
  · rename_i h
    split
    · rename_i h'
      split
      · rename_i hw
        have h'' : s.width.toNat < wordSpan := hw ▸ h'
        simp only [h, h'', hw, Nat.not_lt.mp h, true_and, false_and, false_or, ne_eq, not_true_eq_false, or_false]
      · rename_i hw
        simp only [h, h', hw, Nat.not_lt.mp h, next_eq_next, true_and, false_and, false_or, ne_eq, not_false_eq_true]
    · rename_i h'
      simp only [h, h', reduceCtorEq, false_and, and_false, or_self]

theorem execPk24Byte_next {s t : State} :
    execPk24Byte s = .next t ↔
      s.phase = .pix24 ∧ s.ch.toNat ≤ 2 ∧ sampleIndex24 s < s.pixlen.toNat ∧ sampleIndex24 s < s.pixSize ∧
        s.ocur.toNat < s.outSize ∧ s.ocur.toNat + 1 < wordSpan ∧
        advancePixel (emitted (s.sample (sampleIndex24 s)) s) = .next t := by
  unfold execPk24Byte
  split
  · split
    · rw [pixRead_next, andThen_next]
      constructor
      · rintro ⟨h1, h2, r, hr, hf⟩
        obtain ⟨h3, h4, rfl⟩ := emit_next.mp hr
        simp_all
      · rintro ⟨-, -, h1, h2, h3, h4, h5⟩
        exact ⟨h1, h2, _, emit_eq h3 h4, h5⟩
    · simp_all
  · simp_all

theorem execPadByte_next {s t : State} :
    execPadByte s = .next t ↔
      s.phase = .padw ∧ s.pcnt.toNat ≤ 2 ∧ s.ocur.toNat < s.outSize ∧ s.ocur.toNat + 1 < wordSpan ∧
        ((s.pcnt.toNat + 1 < s.pad.toNat ∧ t = { emitted 0x00#8 s with pcnt := BitVec.ofNat 2 (s.pcnt.toNat + 1) }) ∨
          (s.pad.toNat ≤ s.pcnt.toNat + 1 ∧ nextRow { emitted 0x00#8 s with pcnt := 0 } = .next t)) := by
  unfold execPadByte
  split
  · split
    · rw [andThen_next]
      constructor
      · rintro ⟨r, hr, hf⟩
        obtain ⟨h1, h2, rfl⟩ := emit_next.mp hr
        split at hf
        · cases hf
          simp_all
        · simp_all
      · rintro ⟨-, -, h1, h2, h | h⟩
        · exact ⟨_, emit_eq h1 h2, by rw [if_pos h.1, h.2]⟩
        · exact ⟨_, emit_eq h1 h2, by rw [if_neg (Nat.not_lt.mpr h.1)]; exact h.2⟩
    · simp_all
  · simp_all

/-- A field's serializer step runs only while `FIDX` holds the field's number. -/
theorem fidx_of {k v : Nat} {s t : State} (h : emitField k v s = .next t) : s.fidx = BitVec.ofNat 5 k := by
  rw [← (emitField_next.mp h).2.1, BitVec.ofNat_toNat, BitVec.setWidth_eq]

/-- Everything an instruction can do when it answers a next state. -/
theorem exec_cases {i : Instr} {s t : State} (h : exec i s = .next t) :
    (∃ w k b, i = .cfg w k b ∧ execCfg w k b s = .next t) ∨ (∃ n, i = .enc n ∧ execEnc n s = .next t) ∨
      (∃ k v, (i = .hdrByte ∨ decodeFidx s.fidx = .ok i) ∧ emitField k v s = .next t ∧ k ≤ 16 ∧
        (15 ≤ k → s.bpp = 1#16)) ∨
      (i = .pk1Shift ∧ execPk1Shift s = .next t) ∨ (i = .pk1Flush ∧ execPk1Flush s = .next t) ∨
      (i = .pk24Byte ∧ execPk24Byte s = .next t) ∨ (i = .padByte ∧ execPadByte s = .next t) := by
  cases i with
  | cfg w k b => exact .inl ⟨w, k, b, rfl, h⟩
  | enc n => exact .inr (.inl ⟨n, rfl, h⟩)
  | hdrByte =>
    obtain ⟨h1, h2, h3⟩ := execHdrByte_next.mp h
    exact .inr (.inr (.inl ⟨_, _, .inl rfl, h3, h1, h2⟩))
  | pk1Shift => exact .inr (.inr (.inr (.inl ⟨rfl, h⟩)))
  | pk1Flush => exact .inr (.inr (.inr (.inr (.inl ⟨rfl, h⟩))))
  | pk24Byte => exact .inr (.inr (.inr (.inr (.inr (.inl ⟨rfl, h⟩)))))
  | padByte => exact .inr (.inr (.inr (.inr (.inr (.inr ⟨rfl, h⟩)))))
  | hfPal0 =>
    simp only [exec, execHfPal0, emitPalette] at h
    split at h
    · exact .inr (.inr (.inl ⟨_, _, .inr (by rw [fidx_of h]; rfl), h, by decide, fun _ => by assumption⟩))
    · cases h
  | hfPal1 =>
    simp only [exec, execHfPal1, emitPalette] at h
    split at h
    · exact .inr (.inr (.inl ⟨_, _, .inr (by rw [fidx_of h]; rfl), h, by decide, fun _ => by assumption⟩))
    · cases h
  | _ => exact .inr (.inr (.inl ⟨_, _, .inr (by rw [fidx_of h]; rfl), h, by decide, fun hk => by omega⟩))

/-- `DISP` selects no micro-operation exactly while `PHASE = IDLE`: the register has no reserved value. -/
theorem decodeDisp_disp (s : State) :
    decodeDisp s.disp =
      match s.phase with
      | .idle => .error .idlePhase
      | .hdr => .ok .hdrByte
      | .pix1 => if s.flush then .ok .pk1Flush else .ok .pk1Shift
      | .pix24 => .ok .pk24Byte
      | .padw => .ok .padByte := by
  unfold State.disp
  cases s.phase <;> cases s.flush <;> rfl

/-- The sequencer's own step: idle, it stays; busy, it runs the micro-operation of its phase. -/
theorem fetchSequencer_eq (s : State) :
    fetchSequencer s =
      match s.phase with
      | .idle => .settle s
      | .hdr => .run .hdrByte s
      | .pix1 => if s.flush then .run .pk1Flush s else .run .pk1Shift s
      | .pix24 => .run .pk24Byte s
      | .padw => .run .padByte s := by
  unfold fetchSequencer
  rw [decodeDisp_disp]
  cases s.phase <;> cases s.flush <;> rfl

/-- The instruction a fetch runs, and the state it runs in: the same but for the host's list. -/
theorem fetch_run {s r : State} {i : Instr} (h : fetch s = .run i r) : r = { s with host := r.host } := by
  unfold fetch at h
  split at h
  · rename_i hh
    unfold fetchSequencer at h
    split at h
    · cases h
    · split at h <;> cases h
      rfl
  · cases h
  · unfold fetchCommand at h
    split at h
    · split at h <;> cases h
      rfl
    · cases h
  · split at h
    · cases h
    · unfold fetchSequencer at h
      split at h
      · cases h
      · split at h <;> cases h
        rfl
  · unfold fetchSequencer at h
    split at h
    · cases h
    · split at h <;> cases h
      rfl
  · unfold hostWritePix at h
    split at h <;> cases h
  · unfold hostWriteOut at h
    split at h
    · split at h <;> cases h
    · cases h

/-- Everything a step can do when it answers a next state: run an instruction, reset, let the host write one cell of
`PIX`, or of `OUT` while idle, or leave all but the host's list. -/
theorem step_cases {s t : State} (h : step s = .next t) :
    (∃ i r, fetch s = .run i r ∧ r = { s with host := r.host } ∧ exec i r = .next t) ∨
      (∃ rest, s.host = .reset :: rest ∧ t = resetRegisters { s with host := rest }) ∨
      (∃ i v rest, s.host = .writePix i v :: rest ∧ i.toNat < s.pixSize ∧
        t = { s with host := rest, pix := memWrite s.pix i.toNat v }) ∨
      (∃ a v rest, s.host = .writeOut a v :: rest ∧ a.toNat < s.outSize ∧ s.phase = .idle ∧
        t = { s with host := rest, out := memWrite s.out a.toNat v }) ∨
      (s.phase = .idle ∧ t = { s with host := t.host }) := by
  unfold step at h
  split at h
  · rename_i i r hf
    exact .inl ⟨i, r, hf, fetch_run hf, h⟩
  · rename_i r hf
    cases h
    unfold fetch at hf
    split at hf
    · unfold fetchSequencer at hf
      split at hf
      · cases hf
        exact .inr (.inr (.inr (.inr ⟨by assumption, rfl⟩)))
      · split at hf <;> cases hf
    · cases hf
      exact .inr (.inl ⟨_, by assumption, rfl⟩)
    · unfold fetchCommand at hf
      split at hf
      · split at hf <;> cases hf
      · cases hf
    · split at hf
      · cases hf
        exact .inr (.inr (.inr (.inr ⟨by assumption, rfl⟩)))
      · unfold fetchSequencer at hf
        split at hf
        · cases hf
          contradiction
        · split at hf <;> cases hf
    · unfold fetchSequencer at hf
      split at hf
      · cases hf
        exact .inr (.inr (.inr (.inr ⟨by assumption, rfl⟩)))
      · split at hf <;> cases hf
    · unfold hostWritePix at hf
      split at hf <;> cases hf
      exact .inr (.inr (.inl ⟨_, _, _, by assumption, by assumption, rfl⟩))
    · unfold hostWriteOut at hf
      split at hf
      · split at hf <;> cases hf
        exact .inr (.inr (.inr (.inl ⟨_, _, _, by assumption, by assumption, by assumption, rfl⟩)))
      · cases hf
  · cases h
  · cases h

end Sys2Proof.Machine
end

