-- ==== Sys2Proof/Laws/PerInstr.lean ====
section
/-!
SUPPORT. One lemma per instruction: its own code lies in its own row of spec/opcode_table.json (R98).
-/

namespace Sys2Proof.Laws.RowAccepts

/-- The row of the opcode table that an instruction belongs to accepts the instruction's code. -/
def Statement (i : Instr) : Prop := i.row.accepts (encode i) = true

theorem cfg (width height : Word) (bpp : BitVec 16) : Statement (.cfg width height bpp) :=
  (cfgRow_accepts _ width height bpp).mpr ⟨cmdOpcode_cfgWord _ _ _, cmdReservedC_cfgWord _ _ _⟩

theorem enc (pixlen : BitVec 64) : Statement (.enc pixlen) :=
  (encRow_accepts _ pixlen).mpr ⟨cmdOpcode_encWord _, cmdReservedE_encWord _⟩

theorem hdrByte : Statement .hdrByte := rfl

theorem pk1Shift : Statement .pk1Shift := rfl

theorem pk1Flush : Statement .pk1Flush := rfl

theorem pk24Byte : Statement .pk24Byte := rfl

theorem padByte : Statement .padByte := rfl

theorem hfMagic : Statement .hfMagic := rfl

theorem hfFsize : Statement .hfFsize := rfl

theorem hfRsvd : Statement .hfRsvd := rfl

theorem hfDoff : Statement .hfDoff := rfl

theorem hfDibsz : Statement .hfDibsz := rfl

theorem hfWidth : Statement .hfWidth := rfl

theorem hfHeight : Statement .hfHeight := rfl

theorem hfPlanes : Statement .hfPlanes := rfl

theorem hfBpp : Statement .hfBpp := rfl

theorem hfComp : Statement .hfComp := rfl

theorem hfIsize : Statement .hfIsize := rfl

theorem hfXres : Statement .hfXres := rfl

theorem hfYres : Statement .hfYres := rfl

theorem hfNcol : Statement .hfNcol := rfl

theorem hfNimp : Statement .hfNimp := rfl

theorem hfPal0 : Statement .hfPal0 := rfl

theorem hfPal1 : Statement .hfPal1 := rfl

end Sys2Proof.Laws.RowAccepts
end

