-- ==== Sys2Proof/Tests/Slice0.lean ====
section
/-!
SUPPORT. Tests. Expected values are those of spec/95_test_vectors.md and of the examples in the rules; each test names
its source. Then a witness for the hypotheses of each statement of Certificates/Slice0/Obligations.lean.
-/

namespace Sys2Proof.Tests

open Sys2Proof Sys2Proof.Machine

/-! Well-formedness: one ill-formed `CFG` for each check (R7; vector X5 and the boundary table of section 2.3). -/

theorem test_wf_width_zero : Instr.wellFormed (.cfg 0 1 24) = false := by decide
theorem test_wf_width_large : Instr.wellFormed (.cfg 2147483648 1 1) = false := by decide
theorem test_wf_height_zero : Instr.wellFormed (.cfg 1 0 1) = false := by decide
theorem test_wf_height_large : Instr.wellFormed (.cfg 1 2147483648 8) = false := by decide
theorem test_wf_file_large : Instr.wellFormed (.cfg 1 1073741809 1) = false := by decide
theorem test_wf_file_large24 : Instr.wellFormed (.cfg 1431655764 1 24) = false := by decide
theorem test_wf_duty_before_error : Instr.wellFormed (.cfg 0 5 8) = false := by decide
theorem test_wf_largest : Instr.wellFormed (.cfg 1 1073741808 1) = true ∧
    Instr.wellFormed (.cfg 2147483647 1 1) = true ∧ Instr.wellFormed (.cfg 1431655745 1 24) = true := by decide
theorem test_wf_other_depth : Instr.wellFormed (.cfg 4 4 8) = true := by decide

/-! Decoding: a word for every constructor (R91, R93, R100, R101 and the words of section 2.1). -/

theorem test_decode_cfg : decodeTableWord 96 0x010000010000000100000009 = some (.cfg 9 1 1) := by decide
theorem test_decode_enc : decodeTableWord 96 0x02000000000000000000000C = some (.enc 12) := by decide
theorem test_decode_hdrByte : decodeTableWord 4 0b0001 = some .hdrByte ∧ decodeTableWord 4 0b1001 = some .hdrByte := by
  decide
theorem test_decode_pk1Shift : decodeTableWord 4 0b0010 = some .pk1Shift := by decide
theorem test_decode_pk1Flush : decodeTableWord 4 0b1010 = some .pk1Flush := by decide
theorem test_decode_pk24Byte : decodeTableWord 4 0b0011 = some .pk24Byte ∧ decodeTableWord 4 0b1011 = some .pk24Byte := by
  decide
theorem test_decode_padByte : decodeTableWord 4 0b0100 = some .padByte ∧ decodeTableWord 4 0b1100 = some .padByte := by
  decide
theorem test_decode_hfMagic : decodeTableWord 5 0b00000 = some .hfMagic := by decide
theorem test_decode_hfFsize : decodeTableWord 5 0b00001 = some .hfFsize := by decide
theorem test_decode_hfRsvd : decodeTableWord 5 0b00010 = some .hfRsvd := by decide
theorem test_decode_hfDoff : decodeTableWord 5 0b00011 = some .hfDoff := by decide
theorem test_decode_hfDibsz : decodeTableWord 5 0b00100 = some .hfDibsz := by decide
theorem test_decode_hfWidth : decodeTableWord 5 0b00101 = some .hfWidth := by decide
theorem test_decode_hfHeight : decodeTableWord 5 0b00110 = some .hfHeight := by decide
theorem test_decode_hfPlanes : decodeTableWord 5 0b00111 = some .hfPlanes := by decide
theorem test_decode_hfBpp : decodeTableWord 5 0b01000 = some .hfBpp := by decide
theorem test_decode_hfComp : decodeTableWord 5 0b01001 = some .hfComp := by decide
theorem test_decode_hfIsize : decodeTableWord 5 0b01010 = some .hfIsize := by decide
theorem test_decode_hfXres : decodeTableWord 5 0b01011 = some .hfXres := by decide
theorem test_decode_hfYres : decodeTableWord 5 0b01100 = some .hfYres := by decide
theorem test_decode_hfNcol : decodeTableWord 5 0b01101 = some .hfNcol := by decide
theorem test_decode_hfNimp : decodeTableWord 5 0b01110 = some .hfNimp := by decide
theorem test_decode_hfPal0 : decodeTableWord 5 0b01111 = some .hfPal0 := by decide
theorem test_decode_hfPal1 : decodeTableWord 5 0b10000 = some .hfPal1 := by decide

/-- X1, X2, X3. -/
theorem test_decode_reserved_words : decodeTableWord 96 0x030000000000000000000000 = none ∧
    decodeTableWord 96 0x010100180000000100000001 = none ∧ decodeTableWord 96 0x020000010000000000000003 = none := by
  decide
/-- R100, R108, R109. -/
theorem test_decode_reserved_values : decodeTableWord 4 0 = none ∧ decodeTableWord 4 5 = none ∧
    decodeTableWord 4 7 = none ∧ decodeTableWord 5 17 = none ∧ decodeTableWord 5 31 = none := by decide

/-! Small states. `row24` is program P4's configuration (`CFG 3, 2, 24`), `row1` case C's (`CFG 2, 2, 1`), their memories
as small as H6 allows. -/

/-- The next state of a result, if there is one. -/
def nextState (r : Result) : Option State :=
  match r with
  | .next s => some s
  | .fault _ => none
  | .refused _ => none

/-- What an answer stops with. -/
def refusal (r : Result) : Option Refusal :=
  match r with
  | .next _ => none
  | .fault _ => none
  | .refused e => some e

/-- Samples from index 0. -/
def samples (l : List Byte) : List Host.Cell := l.mapIdx fun i v => (i, v)

/-- `CFG 3, 2, 24` with the eighteen samples of P4. -/
def row24 : State :=
  { State.reset with
    width := 3, height := 2, bpp := 24, rbu := 9, pad := 3, prb := 12, cfgv := true
    pix := samples [1, 2, 3, 4, 5, 6, 7, 8, 9, 10, 11, 12, 13, 14, 15, 16, 17, 18], pixSize := 18, outSize := 78 }

/-- `CFG 2, 2, 1` with the four samples of case C. -/
def row1 : State :=
  { State.reset with
    width := 2, height := 2, bpp := 1, rbu := 1, pad := 3, prb := 4, cfgv := true
    pix := samples [0xFF, 0x00, 0x00, 0xFF], pixSize := 4, outSize := 70 }

/-- The header serializer of `row24` at lane `i` of field `k`. -/
def hdr24 (k : BitVec 5) (i : BitVec 2) : State :=
  { row24 with phase := .hdr, pixlen := 18, fidx := k, bidx := i, ocur := BitVec.ofNat 32 (fieldOffset k.toNat + i.toNat) }

/-- The header serializer of `row1` at lane `i` of field `k`. -/
def hdr1 (k : BitVec 5) (i : BitVec 2) : State :=
  { row1 with phase := .hdr, pixlen := 4, fidx := k, bidx := i, ocur := BitVec.ofNat 32 (fieldOffset k.toNat + i.toNat) }

/-- The 1-bit packer of `row1` in row 0, with `ACC`, `NBITS` and `COL`. -/
def pix1 (acc : Byte) (nbits : BitVec 4) (col : Word) : State :=
  { row1 with phase := .pix1, pixlen := 4, fidx := 16, acc := acc, nbits := nbits, col := col, ocur := 62 }

/-- The 24-bit packer of `row24` in row 0, at column `col` and channel `ch`. -/
def pix24 (col : Word) (ch : BitVec 2) : State :=
  { row24 with phase := .pix24, pixlen := 18, fidx := 14, col := col, ch := ch, ocur := 54 + 3 * col + ch.setWidth 32 }

/-- The padding writer of `row24` in row `row`, after `pcnt` padding bytes. -/
def padw (row : Word) (pcnt : BitVec 2) : State :=
  { row24 with phase := .padw, pixlen := 18, fidx := 14, row := row, col := 3, pcnt := pcnt
               ocur := 54 + 12 * row + 9 + pcnt.setWidth 32 }

/-! One step of each instruction. -/

/-- K1. -/
theorem test_cfg_k1 : (nextState (exec (.cfg 9 1 1) State.reset)).map (fun t => (t.width, t.rbu, t.pad, t.prb, t.cfgv)) =
    some (9, 2, 2, 4, true) := by decide
/-- E7: the second `CFG` fails; the configuration is kept, but dead. -/
theorem test_cfg_e7 : (nextState (exec (.cfg 9 1 8) row24)).map (fun t => (t.err, t.cfgv, t.bpp, t.prb)) =
    some (.unsupportedFormat, false, 24, 12) := by decide
/-- E2 with the required 18 of `row24`: one sample too few. -/
theorem test_enc_short : (nextState (exec (.enc 17) { row24 with done := true, ocur := 78 })).map
    (fun t => (t.err, t.done, t.ocur, t.phase)) = some (.outOfBounds, false, 0, .idle) := by decide
/-- E2b: exactly the required number. -/
theorem test_enc_accepted : (nextState (exec (.enc 18) { row24 with row := 2, fidx := 14 })).map
    (fun t => (t.err, t.phase, t.pixlen, t.row, t.fidx)) = some (.none, .hdr, 18, 0, 0) := by decide
/-- The example of R141: `FSIZE` of a 1 by 1 image at 24 bpp begins with `3A`. -/
theorem test_hdrByte_example : (nextState (exec .hdrByte { hdr24 1 0 with height := 1, prb := 4 })).map
    (fun t => (t.outByte 2, t.bidx, t.fidx, t.ocur)) = some (0x3A, 1, 1, 3) := by decide
/-- P4, step 54: the last byte of the header. -/
theorem test_hdrByte_last : (nextState (exec .hdrByte (hdr24 14 3))).map
    (fun t => (t.outByte 53, t.phase, t.fidx, t.bidx, t.ocur)) = some (0x00, .pix24, 14, 0, 54) := by decide
/-- The example of R173. -/
theorem test_pk1Shift_example : (nextState (exec .pk1Shift { pix1 0b101 3 3 with width := 9, pix := [(3, 0xFF)] })).map
    (fun t => (t.acc, t.nbits, t.col, t.ocur)) = some (0b1011, 4, 4, 62) := by decide
/-- V5: a sample of `FE` is black. -/
theorem test_pk1Shift_black : (nextState (exec .pk1Shift { pix1 1 1 1 with pix := [(1, 0xFE)] })).map
    (fun t => (t.acc, t.nbits)) = some (2, 2) := by decide
/-- The accumulator trace of section 2.4: five pixels `16` are flushed as `B0`, and the row ends. -/
theorem test_pk1Flush_partial : (nextState (exec .pk1Flush { pix1 0x16 5 5 with width := 5 })).map
    (fun t => (t.outByte 62, t.acc, t.nbits, t.phase, t.pcnt)) = some (0xB0, 0, 0, .padw, 0) := by decide
/-- V4: the last flush of a row without padding completes the encode. -/
theorem test_pk1Flush_completes :
    (nextState (exec .pk1Flush { pix1 0x01 8 32 with width := 32, height := 1, pad := 0, ocur := 65 })).map
      (fun t => (t.outByte 65, t.phase, t.done, t.row, t.col, t.ocur)) = some (0x01, .idle, true, 1, 0, 66) := by decide
/-- P4, step 56: G of pixel 0. -/
theorem test_pk24Byte_green : (nextState (exec .pk24Byte (pix24 0 1))).map
    (fun t => (t.outByte 55, t.ch, t.col, t.phase)) = some (0x02, 2, 0, .pix24) := by decide
/-- P4, step 63: R of the last pixel of row 0. -/
theorem test_pk24Byte_rowEnd : (nextState (exec .pk24Byte (pix24 2 2))).map
    (fun t => (t.outByte 62, t.phase, t.col, t.ch, t.pcnt, t.ocur)) = some (0x07, .padw, 3, 0, 0, 63) := by decide
/-- P4, step 66: the last padding byte of row 0. -/
theorem test_padByte_nextRow : (nextState (exec .padByte (padw 0 2))).map
    (fun t => (t.outByte 65, t.phase, t.row, t.col, t.pcnt, t.ocur)) = some (0x00, .pix24, 1, 0, 0, 66) := by decide
/-- P4, step 78: the last byte of the file. -/
theorem test_padByte_completes : (nextState (exec .padByte (padw 1 2))).map
    (fun t => (t.outByte 77, t.phase, t.done, t.row, t.ocur)) = some (0x00, .idle, true, 2, 78) := by decide

/-- The lane of a field that a step emits, with the field's register values. -/
def emittedLane (i : Instr) (s : State) : Option Byte := (nextState (exec i s)).map fun t => t.outByte s.ocur.toNat

/-- The registers of `CFG 640, 480, 24` (K3), at lane `i` of field `k`. -/
def vga (k : BitVec 5) (i : BitVec 2) : State :=
  { hdr24 k i with width := 640, height := 480, prb := 1920, outSize := 921654 }

theorem test_hfMagic : emittedLane .hfMagic (vga 0 0) = some 0x42 ∧ emittedLane .hfMagic (vga 0 1) = some 0x4D := by decide
theorem test_hfFsize : emittedLane .hfFsize (vga 1 0) = some 0x36 ∧ emittedLane .hfFsize (vga 1 2) = some 0x0E := by decide
theorem test_hfRsvd : emittedLane .hfRsvd (vga 2 3) = some 0x00 := by decide
theorem test_hfDoff : emittedLane .hfDoff (vga 3 0) = some 0x36 ∧ emittedLane .hfDoff (hdr1 3 0) = some 0x3E := by decide
theorem test_hfDibsz : emittedLane .hfDibsz (vga 4 0) = some 0x28 ∧ emittedLane .hfDibsz (vga 4 3) = some 0x00 := by decide
theorem test_hfWidth : emittedLane .hfWidth (vga 5 0) = some 0x80 ∧ emittedLane .hfWidth (vga 5 1) = some 0x02 := by decide
theorem test_hfHeight : emittedLane .hfHeight (vga 6 0) = some 0x20 ∧ emittedLane .hfHeight (vga 6 1) = some 0xFE := by decide
theorem test_hfPlanes : emittedLane .hfPlanes (vga 7 0) = some 0x01 ∧ emittedLane .hfPlanes (vga 7 1) = some 0x00 := by decide
theorem test_hfBpp : emittedLane .hfBpp (vga 8 0) = some 0x18 ∧ emittedLane .hfBpp (hdr1 8 0) = some 0x01 := by decide
theorem test_hfComp : emittedLane .hfComp (vga 9 0) = some 0x00 := by decide
theorem test_hfIsize : emittedLane .hfIsize (vga 10 1) = some 0x10 ∧ emittedLane .hfIsize (vga 10 2) = some 0x0E := by decide
theorem test_hfXres : emittedLane .hfXres (vga 11 0) = some 0x00 := by decide
theorem test_hfYres : emittedLane .hfYres (vga 12 3) = some 0x00 := by decide
theorem test_hfNcol : emittedLane .hfNcol (hdr1 13 0) = some 0x02 ∧ emittedLane .hfNcol (vga 13 0) = some 0x00 := by decide
theorem test_hfNimp : emittedLane .hfNimp (hdr1 14 0) = some 0x02 ∧ emittedLane .hfNimp (vga 14 0) = some 0x00 := by decide
theorem test_hfPal0 : emittedLane .hfPal0 (hdr1 15 0) = some 0x00 := by decide
theorem test_hfPal1 : emittedLane .hfPal1 (hdr1 16 2) = some 0xFF ∧ emittedLane .hfPal1 (hdr1 16 3) = some 0x00 := by decide

/-! Steps of the whole machine. -/

/-- X4: `ENC 3` from reset is refused. -/
theorem test_step_enc_unconfigured :
    refusal (step { State.reset with host := [.command 0x020000000000000000000003] }) = some .notConfigured := by decide
/-- X5: `CFG 0, 1, 24` is refused. -/
theorem test_step_cfg_domain :
    refusal (step { State.reset with host := [.command 0x010000180000000100000000] }) = some .outsideDomain := by decide
/-- X6: a command while busy is refused. -/
theorem test_step_busy :
    refusal (step { pix24 0 0 with host := [.command 0x020000000000000000000012] }) = some .commandWhileBusy := by decide
/-- P6: a reset during an encode. -/
theorem test_step_reset : (nextState (step { pix1 3 2 2 with host := [.reset] })).map
    (fun t => (t.phase, t.cfgv, t.done, t.ocur, t.pix == row1.pix)) =
      some (.idle, false, false, 0, true) := by decide
/-- R27: `STATUS` while packing at 1 bpp: `PHASE = 2`, `BUSY = 1`, `CFGV = 1`. -/
theorem test_status : (pix1 0 0 0).status = 0x1A ∧ { row24 with done := true, err := .outOfBounds }.status = 0xB0 := by
  decide
/-- The host's fixed names: every row placed after reset runs its instruction (log entry 9). -/
theorem test_withFetchWord : (nextState (step (State.reset.withFetchWord 8 0x0A))).map (fun t => t.ocur) = some 1 ∧
    (nextState (step (State.reset.withFetchWord 5 0x10))).map (fun t => (t.outByte 0, t.fidx)) = some (0xFF, 16) ∧
    (nextState (step (State.reset.withFetchWord 96 0x010000010000000100000009))).map (fun t => t.cfgv) = some true := by
  decide

/-! Witnesses: states and operands that meet the hypotheses of each statement, at the boundaries of its clauses. -/

/-- What a `next` answer is, for the statements about a next state. -/
theorem next_of_isSome {r : Result} (h : (nextState r).isSome = true) : ∃ t, r = .next t := by
  cases r with
  | next t => exact ⟨t, rfl⟩
  | fault e => exact absurd h (by simp [nextState])
  | refused e => exact absurd h (by simp [nextState])

/-- `DecodeAgreesWithTable`: both clauses, with the ignored bit `F` set. -/
theorem witness_DecodeAgreesWithTable : decode (.disp 0b1001#4) = .ok .hdrByte ∧
    Instr.hdrByte.row.accepts (.disp 0b1001#4) = true := ⟨rfl, rfl⟩

/-- `CommandWordHasOneMeaning`: both sides, at the largest operands. -/
theorem witness_CommandWordHasOneMeaning :
    decodeCommand 0x0100FFFFFFFFFFFFFFFFFFFF#96 = .ok (.cfg 0xFFFFFFFF#32 0xFFFFFFFF#32 0xFFFF#16) ∧
      decodeCommand 0x02000000FFFFFFFFFFFFFFFF#96 = .ok (.enc 0xFFFFFFFFFFFFFFFF#64) := ⟨rfl, rfl⟩

/-- An idle block with a command word presented. -/
def presented (w : CmdWord) : State := { row24 with host := [.command w] }

/-- `ReservedCommandWordsRefused`, for X1, X2, X3, for reserved bits all ones and for a word that is none of them. -/
theorem witness_ReservedCommandWordsRefused :
    ([0x030000000000000000000000#96, 0x010100180000000100000001#96, 0x020000010000000000000003#96,
        0x00FFFFFFFFFFFFFFFFFFFFFF#96, 0x020000000000000000000003#96].all fun w =>
      (presented w).phase == .idle && (presented w).host == [.command w]) = true ∧
      (0x010000180000000100000001#96).extractLsb' 88 8 = 0x01#8 := by decide

/-- `DispatchSelectsMicroOperation`: every clause; `PIX1` at `NBITS` 8 and 7 and at the last column. -/
theorem witness_DispatchSelectsMicroOperation :
    row24.phase = .idle ∧ (hdr24 0 0).phase = .hdr ∧ (pix24 0 0).phase = .pix24 ∧ (padw 0 0).phase = .padw ∧
      ((pix1 0 8 1).phase = .pix1 ∧ (pix1 0 8 1).nbits.toNat = 8) ∧
      ((pix1 0 1 2).phase = .pix1 ∧ (pix1 0 1 2).col = (pix1 0 1 2).width) ∧
      ((pix1 0 7 1).phase = .pix1 ∧ (pix1 0 7 1).nbits.toNat < 8 ∧ (pix1 0 7 1).col.toNat < (pix1 0 7 1).width.toNat) ∧
      ((pix1 0 8 2).nbits.toNat ≤ 8 ∧ (pix1 0 8 2).col.toNat ≤ (pix1 0 8 2).width.toNat) := by decide

/-- `HdrByteRunsSelectedField`: the first and the last field, and the reserved values. -/
theorem witness_HdrByteRunsSelectedField :
    (hdr1 0 0).phase = .hdr ∧ decodeFidx (hdr1 0 0).fidx = .ok .hfMagic ∧ decodeFidx (hdr1 16 3).fidx = .ok .hfPal1 ∧
      17 ≤ (hdr1 17 0).fidx.toNat ∧ 17 ≤ (hdr1 31 0).fidx.toNat := ⟨rfl, rfl, rfl, by decide, by decide⟩

/-- `StepRunsPresentedCommand`: an idle block and a busy one. -/
theorem witness_StepRunsPresentedCommand :
    (presented 0x020000000000000000000003#96).host = .command 0x020000000000000000000003#96 :: [] ∧
      decodeCommand 0x020000000000000000000003#96 = .ok (.enc 3#64) ∧
      { padw 0 0 with host := [.command 0x020000000000000000000003#96] }.phase = .padw := ⟨rfl, rfl, rfl⟩

/-- `StepRunsSelectedMicroOperation`: the host has nothing to do, waits, stands by. -/
theorem witness_StepRunsSelectedMicroOperation :
    decodeDisp (padw 0 0).disp = .ok .padByte ∧ (padw 0 0).host = [] ∧
      decodeDisp { pix1 0 0 0 with host := [.wait] }.disp = .ok .pk1Shift ∧
      decodeDisp { pix24 0 0 with host := [.tick, .wait] }.disp = .ok .pk24Byte := ⟨rfl, rfl, rfl, rfl⟩

/-- `IdleBlockStaysAsItIs`: every clause. -/
theorem witness_IdleBlockStaysAsItIs :
    State.reset.phase = .idle ∧ State.reset.host = [] ∧ { row24 with host := [.wait] }.host = .wait :: [] ∧
      { row24 with host := [.tick] }.host = .tick :: [] := ⟨rfl, rfl, rfl, rfl⟩

/-- `ResetStepClearsRegisters`: from a busy state, with nothing and with something left to do. -/
theorem witness_ResetStepClearsRegisters :
    { padw 0 0 with host := [.reset] }.host = .reset :: [] ∧
      { pix1 1 1 1 with host := [.reset, .wait] }.host = .reset :: [.wait] := ⟨rfl, rfl⟩

/-- `HostWritesOneCell`: the last cell the platform backs, of each memory, idle and busy. -/
theorem witness_HostWritesOneCell :
    (17#64).toNat < { row24 with host := [.writePix 17 9] }.pixSize ∧
      (77#32).toNat < { row24 with host := [.writeOut 77 9] }.outSize ∧ row24.phase = .idle ∧ (padw 0 0).phase ≠ .idle := by decide

/-- The domain condition of `CfgConfiguresOrRaises` at the boundary table of section 2.3, and just outside. -/
theorem witness_CfgConfiguresOrRaises :
    row24.phase = .idle ∧ headerSize 1 + 1073741808 * paddedRowBytes 1 1 ≤ 2 ^ 32 - 1 ∧
      ¬ headerSize 1 + 1073741809 * paddedRowBytes 1 1 ≤ 2 ^ 32 - 1 ∧
      headerSize 1 + 1 * paddedRowBytes 2147483647 1 ≤ 2 ^ 32 - 1 ∧
      headerSize 24 + 1 * paddedRowBytes 1431655745 24 ≤ 2 ^ 32 - 1 ∧
      ¬ headerSize 24 + 1 * paddedRowBytes 1431655764 24 ≤ 2 ^ 32 - 1 := by decide

/-- Both depths, `CFGV = 1`, idle: for `EncStartsOrRaises` and `MemorySizesAskedOfEveryEnc`, with the required number of
samples, one fewer, and memories one cell too small. -/
theorem witness_EncStartsOrRaises :
    (row24.phase = .idle ∧ row24.cfgv = true ∧ row24.bpp.toNat = 24 ∧ row1.bpp.toNat = 1) ∧
      ((18#64).toNat = row24.requiredSamples ∧ (18#64).toNat ≤ row24.pixSize ∧ row24.fileBytes = row24.outSize) ∧
      ((4#64).toNat = row1.requiredSamples ∧ (4#64).toNat ≤ row1.pixSize ∧ row1.fileBytes = row1.outSize) ∧
      (17#64).toNat < row24.requiredSamples ∧ { row24 with pixSize := 17 }.pixSize < (18#64).toNat ∧
      { row24 with outSize := 77 }.outSize < row24.fileBytes ∧ State.reset.cfgv = false ∧ (padw 0 0).phase ≠ .idle := by
  decide

/-- `CommandsNeedAnIdleBlock`: busy, and the two commands that complete. -/
theorem witness_CommandsNeedAnIdleBlock :
    (hdr24 0 0).phase ≠ .idle ∧
      { hdr24 0 0 with host := [.command 0x020000000000000000000012] }.host = .command 0x020000000000000000000012 :: [] ∧
      (nextState (exec (.cfg 9 1 1) row24)).isSome = true ∧ (nextState (exec (.enc 18) row24)).isSome = true := by decide

/-- `DutiesComeBeforeErrors`: `CFG 0, 5, 8`, each bound of the domain, no configuration, and a short `ENC` of a buffer that
`PIX` does not hold. -/
theorem witness_DutiesComeBeforeErrors :
    State.reset.phase = .idle ∧ State.reset.cfgv = false ∧ ¬ 1 ≤ (0#32).toNat ∧ ¬ (2147483648#32).toNat ≤ 2 ^ 31 - 1 ∧
      ¬ fileSize 1 1073741809 1 ≤ 2 ^ 32 - 1 ∧
      (row24.phase = .idle ∧ row24.cfgv = true ∧ (17#64).toNat < required row24.width.toNat row24.height.toNat row24.bpp.toNat ∧
        { row24 with pixSize := 16 }.pixSize < (17#64).toNat) := by decide

/-- `AcceptedEncForgetsEarlierEncodes`: after a completed encode and fresh. -/
theorem witness_AcceptedEncForgetsEarlierEncodes :
    keepsConfig { row24 with done := true, ocur := 78, row := 2, fidx := 14, pixlen := 20 } row24 ∧
      (nextState (exec (.enc 18) { row24 with done := true, ocur := 78, row := 2, fidx := 14, pixlen := 20 })).map
        (fun t => t.phase) = some .hdr := ⟨⟨rfl, rfl, rfl, rfl, rfl, rfl⟩, by decide⟩

/-- `ConstantFieldsEmitted`, `SizeFieldsEmitted`: the first and the last lane of the fields at 24 bpp. -/
theorem witness_fields24 :
    ((List.range 15).all fun k =>
      ([0, fieldSize k - 1].all fun i =>
        let s := hdr24 (BitVec.ofNat 5 k) (BitVec.ofNat 2 i)
        s.phase == .hdr && s.fidx.toNat == k && decide (s.bidx.toNat < fieldSize k) &&
          decide (s.ocur.toNat < s.outSize) && decide (s.ocur.toNat + 1 < wordSpan))) = true := by decide

/-- `ColourFieldsEmitted`: the first and the last lane of the fields at 1 bpp, the palette among them; and another depth. -/
theorem witness_fields1 :
    ((List.range 17).all fun k =>
      ([0, fieldSize k - 1].all fun i =>
        let s := hdr1 (BitVec.ofNat 5 k) (BitVec.ofNat 2 i)
        s.phase == .hdr && s.fidx.toNat == k && decide (s.bidx.toNat < fieldSize k) &&
          decide (s.ocur.toNat < s.outSize) && decide (s.ocur.toNat + 1 < wordSpan))) = true ∧
      row1.bpp.toNat = 1 ∧ row24.bpp.toNat ≠ 1 := by decide

/-- `HdrByteEmitsHeaderLane`: the last field at each depth. -/
theorem witness_HdrByteEmitsHeaderLane :
    ((hdr24 14 3).fidx.toNat = lastField (hdr24 14 3).bpp.toNat ∧
        (hdr24 14 3).prb.toNat = paddedRowBytes (hdr24 14 3).width.toNat (hdr24 14 3).bpp.toNat) ∧
      ((hdr1 16 3).fidx.toNat = lastField (hdr1 16 3).bpp.toNat ∧
        (hdr1 16 3).prb.toNat = paddedRowBytes (hdr1 16 3).width.toNat (hdr1 16 3).bpp.toNat) := by decide

/-- `HeaderByteIsLaneOfItsField`: the last byte of the header at each depth, and the last lane of a 2-byte field. -/
theorem witness_HeaderByteIsLaneOfItsField :
    (16 ≤ lastField 1 ∧ 3 < fieldSize 16) ∧ (14 ≤ lastField 24 ∧ 3 < fieldSize 14) ∧ (8 ≤ lastField 24 ∧ 1 < fieldSize 8) := by
  decide

/-- `Pk1ShiftTakesOneSample`: the last column of the last row, which reads the last sample. -/
theorem witness_Pk1ShiftTakesOneSample :
    let s := { pix1 0 1 1 with row := 1 }
    s.phase = .pix1 ∧ s.nbits.toNat < 8 ∧ s.col.toNat < s.width.toNat ∧
      s.row.toNat * s.width.toNat + s.col.toNat + 1 = s.pixlen.toNat ∧
      s.row.toNat * s.width.toNat + s.col.toNat < s.pixSize := by decide

/-- `Pk1FlushEmitsPackedByte`: a full byte inside a row, and the last byte of a row with and without padding. -/
theorem witness_Pk1FlushEmitsPackedByte :
    ([{ pix1 0xFF 8 8 with width := 9 }, pix1 1 1 2, { pix1 0x01 8 32 with width := 32, pad := 0 }].all fun s =>
      s.phase == .pix1 && (s.nbits == 8 || s.col == s.width) && decide (s.nbits.toNat ≤ 8) &&
        decide (s.ocur.toNat < s.outSize) && decide (s.ocur.toNat + 1 < wordSpan) &&
        decide (s.row.toNat + 1 < 2 ^ 32)) = true := by decide

/-- `Pk24ByteEmitsOneSample`: each channel, at the first and the last column; the last row's B reads the last sample. -/
theorem witness_Pk24ByteEmitsOneSample :
    ([pix24 0 0, pix24 0 1, pix24 0 2, pix24 2 2, { pix24 2 0 with row := 1 }].all fun s =>
      s.phase == .pix24 && decide (s.ch.toNat ≤ 2) && decide (s.col.toNat < s.width.toNat) &&
        decide (s.row.toNat + 1 < 2 ^ 32) &&
        decide (3 * (s.row.toNat * s.width.toNat + s.col.toNat) + (2 - s.ch.toNat) < s.pixlen.toNat) &&
        decide (3 * (s.row.toNat * s.width.toNat + s.col.toNat) + (2 - s.ch.toNat) < s.pixSize) &&
        decide (s.ocur.toNat < s.outSize) && decide (s.ocur.toNat + 1 < wordSpan)) = true := by decide

/-- `PadByteEmitsZero`: a padding byte that is not the last, and the last. -/
theorem witness_PadByteEmitsZero :
    ([padw 0 0, padw 0 2, padw 1 2, { padw 0 0 with pad := 1 }].all fun s =>
      s.phase == .padw && decide (s.pcnt.toNat < s.pad.toNat) && decide (s.ocur.toNat < s.outSize) &&
        decide (s.ocur.toNat + 1 < wordSpan) && decide (s.row.toNat + 1 < 2 ^ 32)) = true := by decide

/-- `ReadPastPixlenIsStuck`: a read exactly at `PIXLEN`, by each packer. -/
theorem witness_ReadPastPixlenIsStuck :
    ({ pix1 0 1 1 with pixlen := 1 }.pixlen.toNat ≤ 0 * 2 + 1 ∧ (pix1 0 1 1).phase = .pix1) ∧
      ({ pix24 0 0 with pixlen := 2 }.pixlen.toNat ≤ 3 * (0 * 3 + 0) + (2 - 0) ∧ (pix24 0 0).ch.toNat ≤ 2) := by decide

/-- `UnbackedAccessIsStuck`: the first sample and the first byte that are not backed, for each micro-operation and the host. -/
theorem witness_UnbackedAccessIsStuck :
    ((pix1 0 1 1).row.toNat * (pix1 0 1 1).width.toNat + (pix1 0 1 1).col.toNat = 1 ∧ 1 < (pix1 0 1 1).pixlen.toNat ∧
        { pix1 0 1 1 with pixSize := 1 }.pixSize ≤ 1) ∧
      (3 * ((pix24 0 0).row.toNat * (pix24 0 0).width.toNat + (pix24 0 0).col.toNat) + (2 - (pix24 0 0).ch.toNat) = 2 ∧
        2 < (pix24 0 0).pixlen.toNat ∧ { pix24 0 0 with pixSize := 2 }.pixSize ≤ 2) ∧
      ({ hdr24 14 3 with outSize := 53 }.outSize ≤ (hdr24 14 3).ocur.toNat ∧ 14 ≤ lastField 24) ∧
      ({ pix1 1 1 2 with outSize := 62 }.outSize ≤ (pix1 1 1 2).ocur.toNat ∧ (pix1 1 1 2).col = (pix1 1 1 2).width) ∧
      ({ pix24 0 0 with outSize := 54 }.outSize ≤ (pix24 0 0).ocur.toNat ∧ 2 < (pix24 0 0).pixlen.toNat ∧
        2 < (pix24 0 0).pixSize) ∧
      { padw 1 2 with outSize := 77 }.outSize ≤ (padw 1 2).ocur.toNat ∧ row24.pixSize ≤ (18#64).toNat ∧
      row24.outSize ≤ (78#32).toNat := by decide

/-- `ReservedStatesRefused`: each reserved value at the first of its range, and states that do not select, each packer's
in its own phase among them. -/
theorem witness_ReservedStatesRefused :
    17 ≤ (hdr24 17 0).fidx.toNat ∧ ((hdr24 15 0).fidx.toNat = 15 ∧ (hdr24 16 0).bpp.toNat ≠ 1) ∧
      ((hdr24 0 2).fidx.toNat = 0 ∧ 2 ≤ (hdr24 8 2).bidx.toNat ∧ fieldSize 8 ≤ (hdr24 8 2).bidx.toNat) ∧
      (9 ≤ (pix1 0 9 2).nbits.toNat ∧ (pix1 0 9 2).col = (pix1 0 9 2).width) ∧
      (pix24 0 3).ch.toNat = 3 ∧ (padw 0 3).pcnt.toNat = 3 ∧ (padw 0 0).phase ≠ .hdr ∧
      (¬ (pix1 0 8 0).nbits.toNat < 8 ∧ ¬ (pix1 0 2 2).col.toNat < (pix1 0 2 2).width.toNat ∧ (hdr24 0 0).phase ≠ .pix1) ∧
      ((pix1 0 7 1).nbits.toNat ≠ 8 ∧ (pix1 0 7 1).col ≠ (pix1 0 7 1).width) ∧
      (hdr24 0 0).phase ≠ .pix24 ∧ (hdr24 0 0).phase ≠ .padw ∧
      decodeFidx 16 = .ok .hfPal1 ∧ (hdr1 16 0).bpp.toNat = 1 ∧ (hdr1 15 0).fidx ≠ 16 := by decide

/-- `StrideIsLeastMultipleOfFour`: the narrowest image, and a bound met exactly. -/
theorem witness_StrideIsLeastMultipleOfFour :
    rowBytesUnpadded 1 1 = 1 ∧ rowBytesUnpadded 1 24 = 3 ∧ 4 % 4 = 0 ∧ rowBytesUnpadded 32 1 ≤ 4 := by decide

/-- `DomainArithmeticFits`: the largest images of the boundary table, and the last pixel of each. -/
theorem witness_DomainArithmeticFits :
    inDomain 2147483647 1 1 = true ∧ inDomain 1 1073741808 1 = true ∧ inDomain 1431655745 1 24 = true ∧ 0 < 1 ∧
      2147483646 < 2147483647 ∧ 1431655744 < 1431655745 := by decide

/-- `PackedBitIsWhiteColumn`: the last byte of a row of nine columns, with its one live column and a dead one. -/
theorem witness_PackedBitIsWhiteColumn : 1 < (9 + 7) / 8 ∧ 0 < 8 ∧ 7 < 8 := by decide

/-- `ImageHoldsEveryPixel`: the last pixel, data byte and padding byte of the last row. -/
theorem witness_ImageHoldsEveryPixel :
    1 ≤ 3 ∧ 1 < 2 ∧ 2 < 3 ∧ 0 < rowBytesUnpadded 3 1 ∧ 2 < padding (rowBytesUnpadded 3 24) ∧
      2 < padding (rowBytesUnpadded 3 1) := by decide

/-- `RowsAreIndependent`: two buffers that differ outside row 0 of a one-column image only, at each depth. -/
theorem witness_RowsAreIndependent :
    (∀ i, (1 : Nat) = 1 → 0 * 1 ≤ i → i < 0 * 1 + 1 →
        (fun _ => 0#8 : Nat → Byte) i = (fun j => if j = 3 then 1#8 else 0#8 : Nat → Byte) i) ∧
      (∀ i, (24 : Nat) = 24 → 3 * 0 * 1 ≤ i → i < 3 * 0 * 1 + 3 * 1 →
        (fun _ => 0#8 : Nat → Byte) i = (fun j => if j = 3 then 1#8 else 0#8 : Nat → Byte) i) :=
  ⟨fun i _ _ h => (if_neg (show ¬ i = 3 by omega)).symm, fun i _ _ h => (if_neg (show ¬ i = 3 by omega)).symm⟩

/-- `BlockNeverWritesPix`, `OnlyEmitWritesOut`, `OnlyCfgWritesConfiguration`, `PhaseTransitionGraph`: an instruction of
every kind answers a next state, from every phase. -/
theorem witness_next_states :
    ([exec (.cfg 9 1 1) row24, exec (.enc 17) row24, exec (.enc 18) row24, exec .hdrByte (hdr24 14 3),
      exec .hfMagic (hdr1 0 0), exec .pk1Shift (pix1 0 0 0), exec .pk1Flush (pix1 1 1 2), exec .pk24Byte (pix24 2 2),
      exec .padByte (padw 0 0), exec .padByte (padw 1 2)].all fun r => (nextState r).isSome) = true := by decide

/-- `OnlyCfgWritesConfiguration`, `OnlyEmitWritesOut`, `SequencerStepsRaiseNothing`: a step of a busy block, and one in which the host writes. -/
theorem witness_busy_steps :
    (padw 0 0).phase ≠ .idle ∧ (padw 0 0).host = [] ∧ (nextState (step (padw 0 0))).isSome = true ∧
      (nextState (step { padw 0 0 with host := [.writePix 0 1] })).isSome = true := by decide

theorem reset_memoryOk : State.reset.memoryOk := by unfold State.memoryOk; decide

/-- `EveryStepKeepsInvariant`: the state after reset, and a step from it. -/
theorem witness_reset_inv : State.reset.Inv ∧ step State.reset = .next State.reset :=
  ⟨⟨reset_memoryOk, fun h => absurd h (by decide), trivial, fun h => absurd h (by decide)⟩, rfl⟩

theorem row24_configOk : row24.configOk := by unfold State.configOk; decide
theorem row1_configOk : row1.configOk := by unfold State.configOk; decide
theorem row24_memoryOk : row24.memoryOk := by unfold State.memoryOk; decide
theorem row1_memoryOk : row1.memoryOk := by unfold State.memoryOk; decide

/-- `EveryStepKeepsInvariant`, `AcceptedEncProducesImage`: a configured idle block, whose `ENC` is accepted. -/
theorem witness_AcceptedEncProducesImage :
    row24.Inv ∧ row24.host = [] ∧ (nextState (exec (.enc 18) row24)).map (fun t => t.phase) = some .hdr ∧
      row1.Inv ∧ row1.host = [] ∧ (nextState (exec (.enc 4) row1)).map (fun t => t.phase) = some .hdr :=
  ⟨⟨row24_memoryOk, fun _ => row24_configOk, trivial, fun h => absurd h (by decide)⟩, rfl, by decide,
    ⟨row1_memoryOk, fun _ => row1_configOk, trivial, fun h => absurd h (by decide)⟩, rfl, by decide⟩

/-- `BusyBlockNeverStops`, `EveryStepKeepsInvariant`: the header serializer. -/
theorem witness_hdr_inv : (hdr24 14 3).Inv ∧ (hdr24 14 3).hostStandsBy :=
  ⟨⟨row24_memoryOk, fun _ => row24_configOk,
    ⟨by unfold State.busyOk; decide, by unfold State.hdrOk; decide⟩, fun h => absurd h (by decide)⟩, .inl rfl⟩

/-- `ReadsStayBelowRequired`: contents that differ from those of `row1` above the four required samples only. -/
theorem witness_ReadsStayBelowRequired :
    (∀ n, n < 4 → { pix1 1 1 1 with pix := samples [0xFF, 0x00, 0x00, 0xFF, 0x77] }.sample n = (pix1 1 1 1).sample n) ∧
      required (pix1 1 1 1).width.toNat (pix1 1 1 1).height.toNat (pix1 1 1 1).bpp.toNat = 4 ∧
      samples [0xFF, 0x00, 0x00, 0xFF, 0x77] ≠ (pix1 1 1 1).pix ∧ (nextState (exec .pk1Shift (pix1 1 1 1))).isSome = true := by
  decide

/-- `ReadsStayBelowRequired`, `BusyBlockNeverStops`: the 1-bit packer at the last column it reads; the host waits. -/
theorem witness_pix1_inv : { pix1 1 1 1 with host := [.wait] }.Inv ∧ { pix1 1 1 1 with host := [.wait] }.hostStandsBy ∧
    (pix1 1 1 1).col.toNat < (pix1 1 1 1).width.toNat :=
  ⟨⟨row1_memoryOk, fun _ => row1_configOk,
    ⟨by unfold State.busyOk; decide, by unfold State.pix1Ok State.headerDone; decide⟩, fun h => absurd h (by decide)⟩,
    .inr (.inl ⟨[], rfl⟩), by decide⟩

/-- `ReadsStayBelowRequired`, `BusyBlockNeverStops`: the 24-bit packer at the last pixel of a row; the host stands by. -/
theorem witness_pix24_inv : { pix24 2 2 with host := [.tick] }.Inv ∧ { pix24 2 2 with host := [.tick] }.hostStandsBy :=
  ⟨⟨row24_memoryOk, fun _ => row24_configOk,
    ⟨by unfold State.busyOk; decide, by unfold State.pix24Ok State.headerDone; decide⟩, fun h => absurd h (by decide)⟩,
    .inr (.inr ⟨[], rfl⟩)⟩

/-- `CompletingStepLeavesFinalState`: the last padding byte of P4. -/
theorem witness_CompletingStepLeavesFinalState : (padw 1 2).Inv ∧ (padw 1 2).phase ≠ .idle ∧ (padw 1 2).hostStandsBy ∧
    (nextState (step (padw 1 2))).map (fun t => t.phase) = some .idle :=
  ⟨⟨row24_memoryOk, fun _ => row24_configOk,
    ⟨by unfold State.busyOk; decide, by unfold State.padwOk State.headerDone; decide⟩, fun h => absurd h (by decide)⟩,
    by decide, .inl rfl, by decide⟩

/-- `CFG 1, 1, 1` with one white sample (V9), busy in `PIX1` after its one shift: the header stands in `OUT`. -/
def white : State :=
  { State.reset with
    width := 1, height := 1, bpp := 1, rbu := 1, pad := 3, prb := 4, phase := .pix1, cfgv := true, pixlen := 1
    fidx := 16, col := 1, acc := 1, nbits := 1, ocur := 62
    pix := samples [0xFF], pixSize := 1, outSize := 66
    out := samples
      ([0x42, 0x4D, 0x42, 0, 0, 0, 0, 0, 0, 0, 0x3E, 0, 0, 0, 0x28, 0, 0, 0, 1, 0, 0, 0, 0xFF, 0xFF, 0xFF, 0xFF, 1, 0, 1, 0, 0, 0] ++
        [0, 0, 4, 0, 0, 0, 0, 0, 0, 0, 0, 0, 0, 0, 2, 0, 0, 0, 2, 0, 0, 0, 0, 0, 0, 0, 0xFF, 0xFF, 0xFF, 0]) }

/-- `SequencerExtendsImage`: V9 before its flush, `OUT` holding the header as V9 gives it, byte for byte. -/
theorem witness_SequencerExtendsImage : white.Inv ∧ white.phase ≠ .idle ∧ white.hostStandsBy ∧ white.outputOk ∧ white.accOk :=
  ⟨⟨by unfold State.memoryOk; decide, fun _ => by unfold State.configOk; decide,
    ⟨by unfold State.busyOk; decide, by unfold State.pix1Ok State.headerDone; decide⟩, fun h => absurd h (by decide)⟩,
    by decide, .inl rfl, by unfold State.outputOk; decide, fun _ => by decide⟩

end Sys2Proof.Tests
end

