-- ==== Sys2Proof/Proofs/Scope.lean ====
section
/-!
PROOFS. One step is a fetch and a run (R13): what the fetch gives for a presented command word and for the sequencer, and
that a command is refused while the block is busy.
-/

namespace Sys2Proof.Machine

/-- The two formats of a command word, and no third (R91, R93, R95). -/
theorem decodeCommand_eq_ok {w : CmdWord} {i : Instr} :
    decodeCommand w = .ok i ↔
      (cmdOpcode w = 0x01#8 ∧ cmdReservedC w = 0#8 ∧ i = .cfg (cmdWidth w) (cmdHeight w) (cmdBpp w)) ∨
        (cmdOpcode w = 0x02#8 ∧ cmdReservedE w = 0#24 ∧ i = .enc (cmdPixlen w)) := by
  unfold decodeCommand
  split
  · split <;> simp_all [eq_comm (b := i)]
  · split
    · split <;> simp_all [eq_comm (b := i)]
    · simp_all

theorem execCfg_of_busy {s : State} (hp : s.phase ≠ .idle) (width height : Word) (bpp : BitVec 16) :
    execCfg width height bpp s = .refused .commandWhileBusy := if_neg hp

theorem execEnc_of_busy {s : State} (hp : s.phase ≠ .idle) (pixlen : BitVec 64) :
    execEnc pixlen s = .refused .commandWhileBusy := if_neg hp

/-- While `BUSY` every command is refused, whatever its operands (R120). -/
theorem exec_command_of_busy {w : CmdWord} {i : Instr} {s : State} (hi : decodeCommand w = .ok i)
    (hp : s.phase ≠ .idle) : exec i s = .refused .commandWhileBusy := by
  rcases decodeCommand_eq_ok.mp hi with ⟨-, -, rfl⟩ | ⟨-, -, rfl⟩
  · exact execCfg_of_busy hp _ _ _
  · exact execEnc_of_busy hp _

theorem fetch_of_host_nil {s : State} (hs : s.host = []) : fetch s = fetchSequencer s := by
  rw [fetch, hs]

theorem fetch_of_host_command {s : State} {w : CmdWord} {rest : List HostAction} (hs : s.host = .command w :: rest) :
    fetch s = fetchCommand w { s with host := rest } := by
  rw [fetch, hs]

theorem fetch_of_host_tick {s : State} {rest : List HostAction} (hs : s.host = .tick :: rest) :
    fetch s = fetchSequencer { s with host := rest } := by
  rw [fetch, hs]

/-- A host that waits for `BUSY = 0` leaves a busy block to the sequencer. -/
theorem fetch_of_host_wait {s : State} {rest : List HostAction} (hs : s.host = .wait :: rest) (hp : s.phase ≠ .idle) :
    fetch s = fetchSequencer s := by
  rw [fetch, hs]
  exact if_neg hp

theorem fetchCommand_of_idle {w : CmdWord} {i : Instr} {s : State} (hp : s.phase = .idle)
    (hi : decodeCommand w = .ok i) : fetchCommand w s = .run i s := by
  rw [fetchCommand, if_pos hp, hi]

theorem fetchCommand_of_busy {s : State} (hp : s.phase ≠ .idle) (w : CmdWord) :
    fetchCommand w s = .refuse .commandWhileBusy := if_neg hp

theorem phase_ne_idle_of_decodeDisp {s : State} {i : Instr} (hi : decodeDisp s.disp = .ok i) : s.phase ≠ .idle := by
  intro hp
  rw [decodeDisp_disp, hp] at hi
  cases hi

theorem fetchSequencer_of_decodeDisp {s : State} {i : Instr} (hi : decodeDisp s.disp = .ok i) :
    fetchSequencer s = .run i s := by
  rw [fetchSequencer, if_neg (phase_ne_idle_of_decodeDisp hi), hi]

theorem step_of_fetch_run {s t : State} {i : Instr} (hf : fetch s = .run i t) : step s = exec i t := by
  rw [step, hf]

theorem step_of_fetch_refuse {s : State} {why : Refusal} (hf : fetch s = .refuse why) : step s = .refused why := by
  rw [step, hf]

/-- Settles O9: an idle block fetches the decoded command; a busy one refuses in the fetch what the instruction would
refuse itself. -/
theorem stepRunsPresentedCommand : Obligations.StepRunsPresentedCommand := by
  intro s w rest i hs hi
  have hfetch := fetch_of_host_command hs
  by_cases hp : { s with host := rest }.phase = .idle
  · exact step_of_fetch_run (hfetch.trans (fetchCommand_of_idle hp hi))
  · calc step s = .refused .commandWhileBusy := step_of_fetch_refuse (hfetch.trans (fetchCommand_of_busy hp w))
      _ = exec i { s with host := rest } := (exec_command_of_busy hi hp).symm

/-- Settles O10: `DISP` selects a micro-operation only while the block is busy, so each of the three ways the host lets
the block step fetches it. -/
theorem stepRunsSelectedMicroOperation : Obligations.StepRunsSelectedMicroOperation := by
  intro s i hi
  have hp : s.phase ≠ .idle := phase_ne_idle_of_decodeDisp hi
  refine ⟨?_, fun rest hs => ?_⟩
  · rintro (hs | ⟨rest, hs⟩)
    · exact step_of_fetch_run ((fetch_of_host_nil hs).trans (fetchSequencer_of_decodeDisp hi))
    · exact step_of_fetch_run ((fetch_of_host_wait hs hp).trans (fetchSequencer_of_decodeDisp hi))
  · exact step_of_fetch_run ((fetch_of_host_tick hs).trans (fetchSequencer_of_decodeDisp hi))

end Sys2Proof.Machine
end

/-!
PROOFS. What a sequencer step leaves alone, said once for all five micro-operations and the field emitters: at most one
`Emit` happens, and beside it only `PHASE`, `DONE` and the working registers change (R20, R29, R60). Then what a host write
does, and the word `STATUS`.
-/

namespace Sys2Proof.Machine

/-- `s` with the registers that place the sequencer in the file taken from `t`: `PHASE`, `DONE` and the eight working
registers of R20. -/
def State.withPosition (s t : State) : State :=
  { s with
    phase := t.phase, done := t.done, fidx := t.fidx, bidx := t.bidx, row := t.row, col := t.col, ch := t.ch
    acc := t.acc, nbits := t.nbits, pcnt := t.pcnt }

theorem advanceHeader_eq_withPosition (n : Nat) (s : State) :
    advanceHeader n s = s.withPosition (advanceHeader n s) := by
  unfold advanceHeader
  split
  · rfl
  · split <;> rfl

theorem rowAfter_eq_withPosition (s : State) : rowAfter s = s.withPosition (rowAfter s) := by
  unfold rowAfter
  split <;> rfl

theorem endRowData_eq_withPosition {s t : State} (h : endRowData s = .next t) : t = s.withPosition t := by
  rcases endRowData_next.mp h with ⟨-, rfl⟩ | ⟨-, -, rfl⟩
  · rfl
  · exact rowAfter_eq_withPosition s

theorem advancePixel_eq_withPosition {s t : State} (h : advancePixel s = .next t) : t = s.withPosition t := by
  rcases advancePixel_next.mp h with ⟨-, rfl⟩ | ⟨-, -, ⟨-, hend⟩ | ⟨-, rfl⟩⟩
  · rfl
  · have hpos := endRowData_eq_withPosition hend
    exact hpos
  · rfl

/-- The frame of a sequencer step: its position changes, after at most one `Emit`. -/
def sequencerFrame (s t : State) : Prop :=
  t = s.withPosition t ∨ ∃ b, s.canEmit ∧ t = (emitted b s).withPosition t

theorem sequencerFrame.keepsConfig {s t : State} (h : sequencerFrame s t) : keepsConfig s t := by
  rcases h with h | ⟨b, -, h⟩ <;> rw [h] <;> exact ⟨rfl, rfl, rfl, rfl, rfl, rfl⟩

theorem sequencerFrame.keepsCommandRegs {s t : State} (h : sequencerFrame s t) : keepsCommandRegs s t := by
  rcases h with h | ⟨b, -, h⟩ <;> rw [h] <;> exact ⟨rfl, rfl, rfl⟩

/-- Neither `PIX` nor anything that is not the block's own changes. -/
theorem sequencerFrame.keepsPlatform {s t : State} (h : sequencerFrame s t) :
    t.pix = s.pix ∧ t.pixSize = s.pixSize ∧ t.outSize = s.outSize ∧ t.host = s.host := by
  rcases h with h | ⟨b, -, h⟩ <;> rw [h] <;> exact ⟨rfl, rfl, rfl, rfl⟩

theorem emitField_frame {k v : Nat} {s t : State} (h : emitField k v s = .next t) : sequencerFrame s t := by
  obtain ⟨-, -, -, hbacked, hfits, rfl⟩ := emitField_next.mp h
  exact .inr ⟨_, ⟨hbacked, hfits⟩, advanceHeader_eq_withPosition _ _⟩

theorem execPk1Shift_frame {s t : State} (h : execPk1Shift s = .next t) : sequencerFrame s t := by
  obtain ⟨-, -, -, -, -, rfl⟩ := execPk1Shift_next.mp h
  exact .inl rfl

theorem execPk1Flush_frame {s t : State} (h : execPk1Flush s = .next t) : sequencerFrame s t := by
  obtain ⟨-, -, -, hbacked, hfits, ⟨-, hend⟩ | ⟨-, rfl⟩⟩ := execPk1Flush_next.mp h
  · have hpos := endRowData_eq_withPosition hend
    exact .inr ⟨_, ⟨hbacked, hfits⟩, hpos⟩
  · exact .inr ⟨_, ⟨hbacked, hfits⟩, rfl⟩

theorem execPk24Byte_frame {s t : State} (h : execPk24Byte s = .next t) : sequencerFrame s t := by
  obtain ⟨-, -, -, -, hbacked, hfits, hadv⟩ := execPk24Byte_next.mp h
  exact .inr ⟨_, ⟨hbacked, hfits⟩, advancePixel_eq_withPosition hadv⟩

theorem execPadByte_frame {s t : State} (h : execPadByte s = .next t) : sequencerFrame s t := by
  obtain ⟨-, -, hbacked, hfits, ⟨-, rfl⟩ | ⟨-, hrow⟩⟩ := execPadByte_next.mp h
  · exact .inr ⟨_, ⟨hbacked, hfits⟩, rfl⟩
  · obtain ⟨-, rfl⟩ := nextRow_next.mp hrow
    exact .inr ⟨_, ⟨hbacked, hfits⟩, rowAfter_eq_withPosition _⟩

/-- An instruction that answers a next state is a command, or a step of a busy block's sequencer with its frame. -/
theorem exec_frame {i : Instr} {s t : State} (h : exec i s = .next t) :
    (∃ w k b, i = .cfg w k b ∧ execCfg w k b s = .next t) ∨ (∃ n, i = .enc n ∧ execEnc n s = .next t) ∨
      (s.phase ≠ .idle ∧ sequencerFrame s t) := by
  rcases exec_cases h with hc | hc | ⟨k, v, -, hf, -⟩ | ⟨-, hp⟩ | ⟨-, hp⟩ | ⟨-, hp⟩ | ⟨-, hp⟩
  · exact .inl hc
  · exact .inr (.inl hc)
  · exact .inr (.inr ⟨by simp [(emitField_next.mp hf).1], emitField_frame hf⟩)
  · exact .inr (.inr ⟨by simp [(execPk1Shift_next.mp hp).1], execPk1Shift_frame hp⟩)
  · exact .inr (.inr ⟨by simp [(execPk1Flush_next.mp hp).1], execPk1Flush_frame hp⟩)
  · exact .inr (.inr ⟨by simp [(execPk24Byte_next.mp hp).1], execPk24Byte_frame hp⟩)
  · exact .inr (.inr ⟨by simp [(execPadByte_next.mp hp).1], execPadByte_frame hp⟩)

/-- An instruction of a busy block is a sequencer step: the commands need an idle one. -/
theorem exec_frame_of_busy {i : Instr} {s t : State} (hp : s.phase ≠ .idle) (h : exec i s = .next t) :
    sequencerFrame s t := by
  rcases exec_frame h with ⟨w, k, b, -, hc⟩ | ⟨n, -, hc⟩ | ⟨-, hf⟩
  · exact absurd (execCfg_next.mp hc).1 hp
  · exact absurd (execEnc_next.mp hc).1 hp
  · exact hf

/-- A step of a busy block that is no reset is the sequencer's, or a host write to `PIX`. -/
theorem step_frame_of_busy {s t : State} (hp : s.phase ≠ .idle) (hr : ∀ rest, s.host ≠ .reset :: rest)
    (h : step s = .next t) :
    (∃ rest, sequencerFrame { s with host := rest } t) ∨
      ∃ i v rest, t = { s with host := rest, pix := memWrite s.pix i v } := by
  rcases step_cases h with ⟨i, r, -, hr, he⟩ | ⟨rest, hh, -⟩ | ⟨i, v, rest, -, -, ht⟩ | ⟨a, v, rest, -, -, hi, -⟩ | ⟨hi, -⟩
  · rw [hr] at he
    exact .inl ⟨r.host, exec_frame_of_busy (s := { s with host := r.host }) hp he⟩
  · exact absurd hh (hr rest)
  · exact .inr ⟨_, v, rest, ht⟩
  · exact absurd hi hp
  · exact absurd hi hp

/-- Settles O40: a command writes registers only, and a sequencer step writes no memory but `OUT`. -/
theorem blockNeverWritesPix : Obligations.BlockNeverWritesPix := by
  intro i s t h
  rcases exec_frame h with ⟨w, k, b, -, hc⟩ | ⟨n, -, hc⟩ | ⟨-, hf⟩
  · obtain ⟨-, -, ⟨-, rfl⟩ | ⟨-, rfl⟩⟩ := execCfg_next.mp hc <;> exact ⟨rfl, rfl, rfl, rfl⟩
  · obtain ⟨-, -, -, -, ⟨-, rfl⟩ | ⟨-, rfl⟩⟩ := execEnc_next.mp hc <;> exact ⟨rfl, rfl, rfl, rfl⟩
  · exact hf.keepsPlatform

/-- Settles O42: of the instructions only a `CFG` with a supported depth is outside the frames; a busy block runs no
command, and a host write to `PIX` touches no register. -/
theorem onlyCfgWritesConfiguration : Obligations.OnlyCfgWritesConfiguration := by
  refine ⟨fun i s t h => ?_, fun s t hp hr h => ?_⟩
  · rcases exec_frame h with ⟨w, k, b, hi, hc⟩ | ⟨n, -, hc⟩ | ⟨-, hf⟩
    · obtain ⟨hp, -, ⟨-, rfl⟩ | ⟨-, rfl⟩⟩ := execCfg_next.mp hc
      · exact .inr ⟨hp, rfl, rfl, w, k, b, hi⟩
      · exact .inl ⟨rfl, rfl, rfl, rfl, rfl, rfl⟩
    · obtain ⟨-, -, -, -, ⟨-, rfl⟩ | ⟨-, rfl⟩⟩ := execEnc_next.mp hc <;> exact .inl ⟨rfl, rfl, rfl, rfl, rfl, rfl⟩
    · exact .inl hf.keepsConfig
  · rcases step_frame_of_busy hp hr h with ⟨rest, hf⟩ | ⟨i, v, rest, rfl⟩
    · exact hf.keepsConfig
    · exact ⟨rfl, rfl, rfl, rfl, rfl, rfl⟩

/-- Settles O13: the reset state is written out register by register. -/
theorem registersAfterReset : Obligations.RegistersAfterReset := by
  unfold Obligations.RegistersAfterReset
  decide

theorem fetch_of_host_writePix {s : State} {i : BitVec 64} {v : Byte} {rest : List HostAction}
    (hs : s.host = .writePix i v :: rest) : fetch s = hostWritePix i v { s with host := rest } := by
  rw [fetch, hs]

theorem fetch_of_host_writeOut {s : State} {a : Word} {v : Byte} {rest : List HostAction}
    (hs : s.host = .writeOut a v :: rest) : fetch s = hostWriteOut a v { s with host := rest } := by
  rw [fetch, hs]

theorem step_of_fetch_settle {s t : State} (hf : fetch s = .settle t) : step s = .next t := by
  rw [step, hf]

theorem sample_writePix (s : State) (l : List HostAction) (i : Nat) (v : Byte) (j : Nat) :
    { s with host := l, pix := memWrite s.pix i v }.sample j = if j = i then v else s.sample j := by
  unfold State.sample
  rw [memRead_memWrite]
  split <;> rfl

theorem outByte_writeOut (s : State) (l : List HostAction) (a : Nat) (v : Byte) (c : Nat) :
    { s with host := l, out := memWrite s.out a v }.outByte c = if c = a then v else s.outByte c := by
  unfold State.outByte
  rw [memRead_memWrite]
  split <;> rfl

/-- Settles O15: a read after the one write, in each memory. -/
theorem hostWritesOneCell : Obligations.HostWritesOneCell := by
  intro s rest
  refine ⟨fun i v hs hi => ?_, fun a v hs ha => ⟨fun hp => ?_, fun hp => ?_⟩⟩
  · refine ⟨{ s with host := rest, pix := memWrite s.pix i.toNat v }, ?_, ?_, fun j hj => ?_, rfl⟩
    · exact step_of_fetch_settle ((fetch_of_host_writePix hs).trans (if_pos hi))
    · rw [sample_writePix, if_pos rfl]
    · rw [sample_writePix, if_neg hj]
  · refine ⟨{ s with host := rest, out := memWrite s.out a.toNat v }, ?_, ?_, fun c hc => ?_, rfl⟩
    · exact step_of_fetch_settle ((fetch_of_host_writeOut hs).trans ((if_pos ha).trans (if_pos hp)))
    · rw [outByte_writeOut, if_pos rfl]
    · rw [outByte_writeOut, if_neg hc]
  · exact step_of_fetch_refuse ((fetch_of_host_writeOut hs).trans ((if_pos ha).trans (if_neg hp)))

theorem status_phase (s : State) : s.status.extractLsb' 0 3 = s.phase.code := by
  unfold State.status
  rw [extract_append_low _ _ _ _ (by decide)]
  exact extract_whole _

theorem status_err (s : State) : s.status.extractLsb' 6 2 = s.err.code := by
  unfold State.status
  rw [extract_append_high _ _ _ _ (by decide), extract_append_high _ _ _ _ (by decide),
    extract_append_high _ _ _ _ (by decide), extract_append_high _ _ _ _ (by decide),
    extract_append_low _ _ _ _ (by decide)]
  exact extract_whole _

theorem status_reserved (s : State) : s.status.extractLsb' 8 24 = 0#24 := by
  unfold State.status
  rw [extract_append_high _ _ _ _ (by decide), extract_append_high _ _ _ _ (by decide),
    extract_append_high _ _ _ _ (by decide), extract_append_high _ _ _ _ (by decide),
    extract_append_high _ _ _ _ (by decide)]
  rfl

theorem status_flags (s : State) :
    s.status.getLsbD 3 = s.busy ∧ s.status.getLsbD 4 = s.cfgv ∧ s.status.getLsbD 5 = s.done := by
  unfold State.status
  simp only [BitVec.getLsbD_append]
  simp

theorem busy_iff (s : State) : s.busy = true ↔ s.phase ≠ .idle := by
  simp [State.busy]

/-- Settles O14: the word is read field by field; the codes of `PHASE` and `ERR` are those of R31 and R221. -/
theorem statusWordFields : Obligations.StatusWordFields := by
  intro s
  obtain ⟨hbusy, hcfgv, hdone⟩ := status_flags s
  refine ⟨?_, ?_, hcfgv, hdone, ?_, status_reserved s⟩
  · rw [status_phase]
    cases s.phase <;> rfl
  · rw [hbusy, busy_iff]
  · rw [status_err]
    cases s.err <;> rfl

/-- Settles O45: the memories are empty, and nothing is configured, busy or done. -/
theorem invariantHoldsAtReset : Obligations.InvariantHoldsAtReset := by
  refine ⟨⟨rfl, rfl, le_rfl, le_rfl⟩, fun h => ?_, trivial, fun h => ?_⟩ <;> cases h

end Sys2Proof.Machine

/-!
PROOFS. The invariant of R49 is kept by every step. The arithmetic of a valid configuration first; then what it takes to
stand at a row's first column, at the end of its data and at its end; then each step, from one such place to another.
-/

namespace Sys2Proof.Machine

theorem State.configOk.depth {s : State} (h : s.configOk) : s.bpp.toNat = 1 ∨ s.bpp.toNat = 24 := by
  obtain ⟨hb, -⟩ := h
  exact hb

theorem State.configOk.width_pos {s : State} (h : s.configOk) : 1 ≤ s.width.toNat := by
  obtain ⟨-, hw, -⟩ := h
  exact hw

theorem State.configOk.height_pos {s : State} (h : s.configOk) : 1 ≤ s.height.toNat := by
  obtain ⟨-, -, -, hh, -⟩ := h
  exact hh

theorem State.configOk.rbu_of_one {s : State} (h : s.configOk) (hb : s.bpp.toNat = 1) :
    s.rbu.toNat = (s.width.toNat + 7) / 8 := by
  obtain ⟨-, -, -, -, -, hrbu, -⟩ := h
  rw [hrbu, hb, rowBytesUnpadded, ceilDiv]
  omega

theorem State.configOk.rbu_of_twentyFour {s : State} (h : s.configOk) (hb : s.bpp.toNat = 24) :
    s.rbu.toNat = 3 * s.width.toNat := by
  obtain ⟨-, -, -, -, -, hrbu, -⟩ := h
  rw [hrbu, hb, rowBytesUnpadded, ceilDiv]
  omega

theorem State.configOk.rbu_pos {s : State} (h : s.configOk) : 0 < s.rbu.toNat := by
  have hw := h.width_pos
  rcases h.depth with hb | hb
  · rw [h.rbu_of_one hb]
    omega
  · rw [h.rbu_of_twentyFour hb]
    omega

theorem State.configOk.prb_eq {s : State} (h : s.configOk) : s.prb.toNat = s.rbu.toNat + s.pad.toNat := by
  obtain ⟨-, -, -, -, -, -, -, hprb, -⟩ := h
  exact hprb

theorem State.configOk.prb_eq_stride {s : State} (h : s.configOk) :
    s.prb.toNat = paddedRowBytes s.width.toNat s.bpp.toNat := by
  obtain ⟨-, -, -, -, -, hrbu, hpad, hprb, -⟩ := h
  rw [hprb, hpad, hrbu, paddedRowBytes]

theorem State.configOk.fileBytes_eq {s : State} (h : s.configOk) :
    s.fileBytes = fileSize s.width.toNat s.height.toNat s.bpp.toNat := by
  rw [State.fileBytes, State.imageBytes, h.prb_eq_stride, fileSize]

theorem inDomain_iff {w h b : Nat} :
    inDomain w h b = true ↔ 1 ≤ w ∧ w ≤ 2 ^ 31 - 1 ∧ 1 ≤ h ∧ h ≤ 2 ^ 31 - 1 ∧
      (depthSupported b = true → fileSize w h b ≤ 2 ^ 32 - 1) := by
  unfold inDomain
  cases depthSupported b <;> simp [and_assoc]

theorem depthSupported_iff {b : Nat} : depthSupported b = true ↔ b = 1 ∨ b = 24 := by
  simp [depthSupported]

theorem State.configOk.inDomain {s : State} (h : s.configOk) :
    inDomain s.width.toNat s.height.toNat s.bpp.toNat = true := by
  have hsize := h.fileBytes_eq
  obtain ⟨-, hw, hw', hh, hh', -, -, -, -, hfile⟩ := h
  exact inDomain_iff.mpr ⟨hw, hw', hh, hh', fun _ => hsize ▸ hfile⟩

theorem padding_le_three (n : Nat) : padding n ≤ 3 := by
  unfold padding
  omega

theorem add_padding_mod_four (n : Nat) : (n + padding n) % 4 = 0 := by
  unfold padding
  omega

/-- The stride is part of the file, of which there is at least one row. -/
theorem paddedRowBytes_le_fileSize {w h b : Nat} (hh : 1 ≤ h) : paddedRowBytes w b ≤ fileSize w h b := by
  have hmul := Nat.mul_le_mul_right (paddedRowBytes w b) hh
  rw [Nat.one_mul] at hmul
  exact hmul.trans (Nat.le_add_left _ _)

/-- `CFG` with operands in the domain and a supported depth leaves a valid configuration (R121). -/
theorem configure_configOk {w h : Word} {b : BitVec 16} (s : State) (hd : inDomain w.toNat h.toNat b.toNat = true)
    (hb : depthSupported b.toNat = true) : (configure w h b s).configOk := by
  obtain ⟨hw, hw', hh, hh', hfile⟩ := inDomain_iff.mp hd
  have hstride := paddedRowBytes_le_fileSize (w := w.toNat) (b := b.toNat) hh
  have hfile := hfile hb
  have hprb : (configure w h b s).prb.toNat = paddedRowBytes w.toNat b.toNat := by
    simp only [configure_prb, BitVec.toNat_ofNat]
    omega
  have hrbu : (configure w h b s).rbu.toNat = rowBytesUnpadded w.toNat b.toNat := by
    have hle : rowBytesUnpadded w.toNat b.toNat ≤ paddedRowBytes w.toNat b.toNat := Nat.le_add_right _ _
    simp only [configure_rbu, BitVec.toNat_ofNat]
    omega
  have hpad : (configure w h b s).pad.toNat = padding (rowBytesUnpadded w.toNat b.toNat) := by
    have hle := padding_le_three (rowBytesUnpadded w.toNat b.toNat)
    simp only [configure_pad, BitVec.toNat_ofNat]
    omega
  refine ⟨depthSupported_iff.mp hb, hw, hw', hh, hh', hrbu, ?_, ?_, ?_, ?_⟩
  · rw [hpad, hrbu]
  · rw [hprb, hrbu, hpad, paddedRowBytes]
  · rw [hprb]
    exact add_padding_mod_four _
  · rw [State.fileBytes, State.imageBytes, hprb]
    exact hfile

/-! ### Places in the file -/

/-- What holds from an accepted `ENC` to the end of the encode, wherever the sequencer stands in the row (R49). -/
def State.encoding (s : State) : Prop :=
  s.configOk ∧ s.cfgv = true ∧ s.done = false ∧ s.err = .none ∧ s.requiredSamples ≤ s.pixlen.toNat ∧
    s.row.toNat < s.height.toNat ∧ s.pixlen.toNat ≤ s.pixSize ∧ s.fileBytes ≤ s.outSize

/-- The packers' registers are as `NextRow` leaves them (R200). -/
def State.packersClear (s : State) : Prop := s.ch = 0 ∧ s.acc = 0 ∧ s.nbits = 0 ∧ s.pcnt = 0

theorem State.encoding.configOk {s : State} (h : s.encoding) : s.configOk := h.1

theorem State.encoding.busyOk {s : State} (h : s.encoding) (hcol : s.col.toNat ≤ s.width.toNat)
    (hocur : s.ocur.toNat < s.fileBytes) : s.busyOk := by
  obtain ⟨-, hcfgv, hdone, herr, hreq, hrow, hpix, hout⟩ := h
  exact ⟨hcfgv, hdone, herr, hreq, hrow, hcol, hocur, hpix, hout⟩

theorem State.encoding.done_eq {s : State} (h : s.encoding) : s.done = false := by
  obtain ⟨-, -, hdone, -⟩ := h
  exact hdone

/-- Row `ROW` lies in the file. -/
theorem State.encoding.rowEnd_le {s : State} (h : s.encoding) : s.rowStart + s.prb.toNat ≤ s.fileBytes := by
  obtain ⟨-, -, -, -, -, hrow, -⟩ := h
  have hmul : (s.row.toNat + 1) * s.prb.toNat ≤ s.height.toNat * s.prb.toNat := Nat.mul_le_mul_right _ hrow
  rw [Nat.succ_mul] at hmul
  rw [State.rowStart, State.fileBytes, State.imageBytes]
  omega

/-- `OCUR` points below the end of the file where it points into the row. -/
theorem State.encoding.lt_fileBytes {s : State} (h : s.encoding) {n : Nat} (hn : n < s.rowStart + s.prb.toNat) :
    n < s.fileBytes := hn.trans_le h.rowEnd_le

theorem phaseOk_of_idle {s : State} (hp : s.phase = .idle) : s.phaseOk := by
  rw [State.phaseOk, hp]
  trivial

theorem phaseOk_hdr {s : State} (hp : s.phase = .hdr) : s.phaseOk ↔ s.busyOk ∧ s.hdrOk := by
  rw [State.phaseOk, hp]

theorem phaseOk_pix1 {s : State} (hp : s.phase = .pix1) : s.phaseOk ↔ s.busyOk ∧ s.pix1Ok := by
  rw [State.phaseOk, hp]

theorem phaseOk_pix24 {s : State} (hp : s.phase = .pix24) : s.phaseOk ↔ s.busyOk ∧ s.pix24Ok := by
  rw [State.phaseOk, hp]

theorem phaseOk_padw {s : State} (hp : s.phase = .padw) : s.phaseOk ↔ s.busyOk ∧ s.padwOk := by
  rw [State.phaseOk, hp]

/-- The part of the invariant that speaks of the sequencer's position. -/
def State.positionOk (s : State) : Prop := s.phaseOk ∧ (s.done = true → s.doneOk)

theorem State.encoding.positionOk {s : State} (h : s.encoding) (hp : s.phaseOk) : s.positionOk :=
  ⟨hp, fun hd => by rw [h.done_eq] at hd; cases hd⟩

theorem pixelPhase_of_one {b : BitVec 16} (h : b.toNat = 1) : pixelPhase b = .pix1 :=
  if_pos (BitVec.eq_of_toNat_eq h)

theorem pixelPhase_of_twentyFour {b : BitVec 16} (h : b.toNat = 24) : pixelPhase b = .pix24 :=
  if_neg fun hb => by rw [hb] at h; cases h

theorem State.encoding.phaseOk_of_pix1Ok {s : State} (h : s.encoding) (hp : s.phase = .pix1) (hx : s.pix1Ok)
    (hcol : s.col.toNat ≤ s.width.toNat) : s.phaseOk := by
  refine (phaseOk_pix1 hp).mpr ⟨h.busyOk hcol (h.lt_fileBytes ?_), hx⟩
  obtain ⟨hb, -, -, hend, -, -, hocur, -⟩ := hx
  have hend' : s.col.toNat = s.width.toNat → 0 < s.nbits.toNat := fun he => hend (BitVec.eq_of_toNat_eq he)
  have hw := h.configOk.width_pos
  have hrbu := h.configOk.rbu_of_one hb
  have hprb := h.configOk.prb_eq
  omega

theorem State.encoding.phaseOk_of_pix24Ok {s : State} (h : s.encoding) (hp : s.phase = .pix24) (hx : s.pix24Ok) :
    s.phaseOk := by
  have ⟨hb, hcol, hch, hocur, _⟩ := hx
  have hrbu := h.configOk.rbu_of_twentyFour hb
  have hprb := h.configOk.prb_eq
  exact (phaseOk_pix24 hp).mpr ⟨h.busyOk hcol.le (h.lt_fileBytes (by omega)), hx⟩

theorem State.encoding.phaseOk_of_padwOk {s : State} (h : s.encoding) (hp : s.phase = .padw) (hx : s.padwOk) :
    s.phaseOk := by
  have ⟨_, hpcnt, hcol, _, _, hocur, _⟩ := hx
  have hprb := h.configOk.prb_eq
  exact (phaseOk_padw hp).mpr ⟨h.busyOk (congrArg BitVec.toNat hcol).le (h.lt_fileBytes (by omega)), hx⟩

/-- The pixel phase may begin at column 0 of a row, its packer clear: after the header and after `NextRow`. -/
theorem State.encoding.phaseOk_of_rowStart {s : State} (h : s.encoding) (hp : s.phase = pixelPhase s.bpp)
    (hocur : s.ocur.toNat = s.rowStart) (hcol : s.col = 0) (hclear : s.packersClear) (hhdr : s.headerDone) :
    s.phaseOk := by
  obtain ⟨hch, hacc, hnb, hpcnt⟩ := hclear
  have hw := h.configOk.width_pos
  have hcol0 : s.col.toNat = 0 := congrArg BitVec.toNat hcol
  have hch0 : s.ch.toNat = 0 := congrArg BitVec.toNat hch
  have hacc0 : s.acc.toNat = 0 := congrArg BitVec.toNat hacc
  have hnb0 : s.nbits.toNat = 0 := congrArg BitVec.toNat hnb
  rcases h.configOk.depth with hb | hb
  · have hne : s.col ≠ s.width := fun he => by
      have := congrArg BitVec.toNat he
      omega
    refine h.phaseOk_of_pix1Ok (hp.trans (pixelPhase_of_one hb))
      ⟨hb, by omega, ?_, fun he => absurd he hne, by omega, by omega, by omega, hch, hpcnt, hhdr⟩ (by omega)
    rw [hacc0]
    exact Nat.two_pow_pos _
  · exact h.phaseOk_of_pix24Ok (hp.trans (pixelPhase_of_twentyFour hb))
      ⟨hb, by omega, by omega, by omega, hacc, hnb, hpcnt, hhdr⟩

/-- All bytes of row `ROW` have been emitted: where `NextRow` is called. -/
def State.rowDone (s : State) : Prop :=
  s.encoding ∧ s.ocur.toNat = s.rowStart + s.prb.toNat ∧ s.packersClear ∧ s.headerDone

/-- After `NextRow` the encode is complete, or the next row begins (R200). -/
theorem State.rowDone.positionOk_rowAfter {s : State} (h : s.rowDone) : (rowAfter s).positionOk := by
  obtain ⟨henc, hocur, hclear, hhdr⟩ := h
  obtain ⟨hcfg, hcfgv, hdone, herr, hreq, hrow, hpix, hout⟩ := henc
  have hrow' : (BitVec.ofNat 32 (s.row.toNat + 1)).toNat = s.row.toNat + 1 :=
    ocur_ofNat_toNat (Nat.lt_of_le_of_lt hrow s.height.isLt)
  have hend : s.ocur.toNat = headerSize s.bpp.toNat + (s.row.toNat + 1) * s.prb.toNat := by
    rw [hocur, State.rowStart, Nat.succ_mul, Nat.add_assoc]
  unfold rowAfter
  split
  · rename_i hlast
    refine ⟨phaseOk_of_idle rfl, fun _ => ⟨rfl, s.width.toNat, s.height.toNat, s.bpp.toNat, hcfg.depth, hcfg.inDomain,
      hrow'.trans hlast, ?_⟩⟩
    rw [hlast] at hend
    exact hend.trans hcfg.fileBytes_eq
  · rename_i hmore
    have henc' : State.encoding
        { s with col := 0, row := BitVec.ofNat 32 (s.row.toNat + 1), phase := pixelPhase s.bpp } :=
      ⟨hcfg, hcfgv, hdone, herr, hreq, by simp only [hrow']; omega, hpix, hout⟩
    refine henc'.positionOk (henc'.phaseOk_of_rowStart rfl ?_ rfl hclear hhdr)
    simp only [State.rowStart, hrow']
    exact hend

/-- All data bytes of row `ROW` have been emitted: where `EndRowData` is called. -/
def State.rowDataDone (s : State) : Prop :=
  s.encoding ∧ s.col = s.width ∧ s.ocur.toNat = s.rowStart + s.rbu.toNat ∧ s.packersClear ∧ s.headerDone

/-- After `EndRowData` the padding writer begins, or the row is done (R198). -/
theorem State.rowDataDone.positionOk_endRowData {s t : State} (h : s.rowDataDone) (ht : endRowData s = .next t) :
    t.positionOk := by
  obtain ⟨henc, hcol, hocur, hclear, hhdr⟩ := h
  have hprb := henc.configOk.prb_eq
  rcases endRowData_next.mp ht with ⟨hpad, rfl⟩ | ⟨hpad, -, rfl⟩
  · obtain ⟨hch, hacc, hnb, -⟩ := hclear
    have henc' : State.encoding { s with phase := .padw, pcnt := 0 } := henc
    exact henc'.positionOk (henc'.phaseOk_of_padwOk rfl ⟨hpad, hpad, hcol, hnb, hch, hocur, hacc, hhdr⟩)
  · exact State.rowDone.positionOk_rowAfter ⟨henc, by omega, hclear, hhdr⟩

/-! ### Each instruction -/

theorem State.Inv.encoding {s : State} (h : s.Inv) (hb : s.busyOk) : s.encoding := by
  obtain ⟨-, hcfg, -, -⟩ := h
  obtain ⟨hcfgv, hdone, herr, hreq, hrow, -, -, hpix, hout⟩ := hb
  exact ⟨hcfg hcfgv, hcfgv, hdone, herr, hreq, hrow, hpix, hout⟩

theorem State.busyOk.col_le {s : State} (h : s.busyOk) : s.col.toNat ≤ s.width.toNat := by
  obtain ⟨-, -, -, -, -, hcol, -⟩ := h
  exact hcol

theorem State.Inv.phaseOk {s : State} (h : s.Inv) : s.phaseOk := by
  obtain ⟨-, -, hphase, -⟩ := h
  exact hphase

theorem emitted_ocur_toNat {b : Byte} {s : State} (h : s.ocur.toNat + 1 < wordSpan) :
    (emitted b s).ocur.toNat = s.ocur.toNat + 1 := ocur_ofNat_toNat h

theorem fieldSize_le_four (k : Nat) : fieldSize k ≤ 4 := by
  unfold fieldSize
  split <;> omega

theorem lastField_le_sixteen (b : Nat) : lastField b ≤ 16 := by
  unfold lastField
  split <;> omega

theorem fieldSize_pos (k : Nat) : 0 < fieldSize k := by
  unfold fieldSize
  split <;> omega

/-- The last field of the header ends where the header ends (R101, R194). -/
theorem fieldOffset_lastField (b : Nat) : fieldOffset (lastField b) + fieldSize (lastField b) = headerSize b := by
  unfold lastField headerSize
  split <;> rfl

theorem fieldOffset_mono : Monotone fieldOffset := monotone_nat_of_le_succ fun _ => Nat.le_add_right _ _

theorem fieldEnd_le_headerSize {k b : Nat} (h : k ≤ lastField b) : fieldOffset k + fieldSize k ≤ headerSize b := by
  rw [← fieldOffset_lastField b]
  exact fieldOffset_mono (Nat.succ_le_succ h)

/-- The header lies in the file, and the first row begins after it. -/
theorem State.encoding.headerSize_lt {s : State} (h : s.encoding) : headerSize s.bpp.toNat < s.fileBytes := by
  have hend := h.rowEnd_le
  have hrbu := h.configOk.rbu_pos
  have hprb := h.configOk.prb_eq
  have hstart : headerSize s.bpp.toNat ≤ s.rowStart := Nat.le_add_right _ _
  omega

/-- The serializer's ranges put `OCUR` below the header's end, so in the file. -/
theorem State.encoding.phaseOk_of_hdrOk {s : State} (h : s.encoding) (hp : s.phase = .hdr) (hh : s.hdrOk) :
    s.phaseOk := by
  refine (phaseOk_hdr hp).mpr ⟨?_, hh⟩
  obtain ⟨hfidx, hbidx, hocur, -, hcol, -⟩ := hh
  have hin := fieldEnd_le_headerSize hfidx
  have hlt := h.headerSize_lt
  refine h.busyOk ?_ (by omega)
  rw [hcol]
  exact Nat.zero_le _

/-- Where the serializer stands between the `Emit` of a lane and its advance: `OCUR` is one ahead of the position. -/
def State.laneEmitted (s : State) : Prop :=
  s.phase = .hdr ∧ s.fidx.toNat ≤ lastField s.bpp.toNat ∧ s.bidx.toNat < fieldSize s.fidx.toNat ∧
    s.ocur.toNat = fieldOffset s.fidx.toNat + s.bidx.toNat + 1 ∧ s.row = 0 ∧ s.col = 0 ∧ s.packersClear

/-- After a lane comes the next lane, the next field, or the first row (R141). -/
theorem State.encoding.positionOk_advanceHeader {s : State} (h : s.encoding) (hl : s.laneEmitted) :
    (advanceHeader (fieldSize s.fidx.toNat) s).positionOk := by
  obtain ⟨hp, hfidx, hbidx, hocur, hrow, hcol, hclear⟩ := hl
  have hsize := fieldSize_le_four s.fidx.toNat
  unfold advanceHeader
  split
  case isTrue hlane =>
    have hnext : (BitVec.ofNat 2 (s.bidx.toNat + 1)).toNat = s.bidx.toNat + 1 := Nat.mod_eq_of_lt (by omega)
    have henc : State.encoding { s with bidx := BitVec.ofNat 2 (s.bidx.toNat + 1) } := h
    refine henc.positionOk (henc.phaseOk_of_hdrOk hp ⟨hfidx, ?_, ?_, hrow, hcol, hclear⟩)
    · exact hnext.trans_lt hlane
    · exact hocur.trans (congrArg (fieldOffset s.fidx.toNat + ·) hnext.symm)
  case isFalse hlane =>
    have hend : s.ocur.toNat = fieldOffset s.fidx.toNat + fieldSize s.fidx.toNat := by omega
    split
    case isTrue hlast =>
      have henc : State.encoding { s with bidx := 0, phase := pixelPhase s.bpp } := h
      refine henc.positionOk (henc.phaseOk_of_rowStart rfl ?_ hcol hclear ⟨hlast, rfl⟩)
      rw [hlast, fieldOffset_lastField] at hend
      simp only [State.rowStart, hrow]
      simpa using hend
    case isFalse hmore =>
      have hlt : s.fidx.toNat < lastField s.bpp.toNat := Nat.lt_of_le_of_ne hfidx hmore
      have hnext : (BitVec.ofNat 5 (s.fidx.toNat + 1)).toNat = s.fidx.toNat + 1 := by
        have hbound := lastField_le_sixteen s.bpp.toNat
        exact Nat.mod_eq_of_lt (by omega)
      have henc : State.encoding { s with bidx := 0, fidx := BitVec.ofNat 5 (s.fidx.toNat + 1) } := h
      refine henc.positionOk (henc.phaseOk_of_hdrOk hp ⟨?_, ?_, ?_, hrow, hcol, hclear⟩)
      · exact hnext.trans_le hlt
      · exact fieldSize_pos _
      · rw [hnext]
        exact hend

theorem emitField_positionOk {k v : Nat} {s t : State} (hs : s.Inv) (h : emitField k v s = .next t) :
    t.positionOk := by
  obtain ⟨hp, rfl, -, -, hfits, rfl⟩ := emitField_next.mp h
  obtain ⟨hbusy, hfidx, hbidx, hocur, hzero⟩ := (phaseOk_hdr hp).mp hs.phaseOk
  have henc : (emitted (lane v s.bidx.toNat) s).encoding := hs.encoding hbusy
  exact henc.positionOk_advanceHeader
    ⟨hp, hfidx, hbidx, (emitted_ocur_toNat hfits).trans (congrArg (· + 1) hocur), hzero⟩

/-- One more bit in `ACC` takes one more bit of room. -/
theorem shiftIn_acc_lt {v : Byte} {s : State} {n : Nat} (h : s.acc.toNat < 2 ^ n) :
    (shiftIn v s).acc.toNat < 2 ^ (n + 1) := by
  have hpow : 2 ^ (n + 1) = 2 * 2 ^ n := Nat.pow_succ'
  simp only [shiftIn_acc, BitVec.toNat_or, BitVec.toNat_shiftLeft, BitVec.toNat_setWidth]
  refine Nat.or_lt_two_pow ((Nat.mod_le _ _).trans_lt ?_) ((Nat.mod_le _ _).trans_lt ?_)
  · rw [Nat.shiftLeft_eq]
    omega
  · have hbit := (bit1 v).isLt
    omega

theorem execPk1Shift_positionOk {s t : State} (hs : s.Inv) (h : execPk1Shift s = .next t) : t.positionOk := by
  obtain ⟨hp, hnb, hcol, -, -, rfl⟩ := execPk1Shift_next.mp h
  obtain ⟨hbusy, hb, -, hacc, -, hmid, hedge, hocur, hch, hpcnt, hhdr⟩ := (phaseOk_pix1 hp).mp hs.phaseOk
  have henc : (shiftIn (s.sample (pixelNumber s)) s).encoding := hs.encoding hbusy
  have hnb' : (shiftIn (s.sample (pixelNumber s)) s).nbits.toNat = s.nbits.toNat + 1 := Nat.mod_eq_of_lt (by omega)
  have hcol' : (shiftIn (s.sample (pixelNumber s)) s).col.toNat = s.col.toNat + 1 :=
    Nat.mod_eq_of_lt (Nat.lt_of_le_of_lt hcol s.width.isLt)
  refine henc.positionOk (henc.phaseOk_of_pix1Ok hp ⟨hb, ?_, ?_, ?_, ?_, ?_, ?_, hch, hpcnt, hhdr⟩ ?_)
  · omega
  · rw [hnb']
    exact shiftIn_acc_lt hacc
  · omega
  · omega
  · omega
  · rw [hnb', hcol', Nat.add_sub_add_right]
    exact hocur
  · rw [hcol']
    exact hcol

theorem execPk1Flush_positionOk {s t : State} (hs : s.Inv) (h : execPk1Flush s = .next t) : t.positionOk := by
  obtain ⟨hp, hflush, -, -, hfits, hcases⟩ := execPk1Flush_next.mp h
  obtain ⟨hbusy, hb, -, -, hend, hmid, hedge, hocur, hch, hpcnt, hhdr⟩ := (phaseOk_pix1 hp).mp hs.phaseOk
  have henc : (flushed s).encoding := hs.encoding hbusy
  have hw : 1 ≤ s.width.toNat := henc.configOk.width_pos
  have hocur' : (flushed s).ocur.toNat = s.rowStart + (s.col.toNat - s.nbits.toNat) / 8 + 1 := by
    rw [← hocur]
    exact ocur_ofNat_toNat hfits
  rcases hcases with ⟨hcol, ht⟩ | ⟨hcol, rfl⟩
  · have hcol' : s.col.toNat = s.width.toNat := congrArg BitVec.toNat hcol
    have hpos := hend hcol
    have hrbu : s.rbu.toNat = (s.width.toNat + 7) / 8 := henc.configOk.rbu_of_one hb
    have hdata : (flushed s).ocur.toNat = s.rowStart + s.rbu.toNat := by omega
    exact State.rowDataDone.positionOk_endRowData ⟨henc, hcol, hdata, ⟨hch, rfl, rfl, hpcnt⟩, hhdr⟩ ht
  · have hnb : s.nbits.toNat = 8 := by
      simp only [State.flush, Bool.or_eq_true, beq_iff_eq, hcol, or_false] at hflush
      rw [hflush]
      rfl
    have hbyte : (flushed s).ocur.toNat = s.rowStart + (s.col.toNat - 0) / 8 := by omega
    exact henc.positionOk (henc.phaseOk_of_pix1Ok hp ⟨hb, Nat.zero_le _, Nat.one_pos, fun he => absurd he hcol,
      fun hm => by have := hmid hm; omega, fun _ => .inl rfl, hbyte, hch, hpcnt, hhdr⟩ hbusy.col_le)

/-- Where the 24-bit packer stands between the `Emit` of a sample and its advance. -/
def State.channelEmitted (s : State) : Prop :=
  s.phase = .pix24 ∧ s.bpp.toNat = 24 ∧ s.col.toNat < s.width.toNat ∧ s.ch.toNat ≤ 2 ∧
    s.ocur.toNat = s.rowStart + 3 * s.col.toNat + s.ch.toNat + 1 ∧ s.acc = 0 ∧ s.nbits = 0 ∧ s.pcnt = 0 ∧ s.headerDone

/-- After a sample comes the next channel, the next pixel, or the end of the row's data (R181). -/
theorem State.encoding.positionOk_advancePixel {s t : State} (h : s.encoding) (hl : s.channelEmitted)
    (ht : advancePixel s = .next t) : t.positionOk := by
  obtain ⟨hp, hb, hcol, hch, hocur, hacc, hnb, hpcnt, hhdr⟩ := hl
  have hcol' : (BitVec.ofNat 32 (s.col.toNat + 1)).toNat = s.col.toNat + 1 :=
    ocur_ofNat_toNat (Nat.lt_of_le_of_lt hcol s.width.isLt)
  rcases advancePixel_next.mp ht with ⟨hlt, rfl⟩ | ⟨hge, -, hcases⟩
  · have hch' : (BitVec.ofNat 2 (s.ch.toNat + 1)).toNat = s.ch.toNat + 1 := Nat.mod_eq_of_lt (by omega)
    have henc : State.encoding { s with ch := BitVec.ofNat 2 (s.ch.toNat + 1) } := h
    refine henc.positionOk (henc.phaseOk_of_pix24Ok hp ⟨hb, hcol, hch'.trans_le hlt, ?_, hacc, hnb, hpcnt, hhdr⟩)
    rw [hch']
    exact hocur
  · have hpixel : s.ocur.toNat = s.rowStart + 3 * (BitVec.ofNat 32 (s.col.toNat + 1)).toNat := by omega
    have henc : State.encoding { s with ch := 0, col := BitVec.ofNat 32 (s.col.toNat + 1) } := h
    rcases hcases with ⟨hlast, hend⟩ | ⟨hmore, rfl⟩
    · have hrbu := h.configOk.rbu_of_twentyFour hb
      refine State.rowDataDone.positionOk_endRowData
        ⟨henc, BitVec.eq_of_toNat_eq (hcol'.trans hlast), ?_, ⟨rfl, hacc, hnb, hpcnt⟩, hhdr⟩ hend
      rw [hcol', hlast, ← hrbu] at hpixel
      exact hpixel
    · refine henc.positionOk (henc.phaseOk_of_pix24Ok hp ⟨hb, ?_, Nat.zero_le _, hpixel, hacc, hnb, hpcnt, hhdr⟩)
      rw [hcol']
      exact Nat.lt_of_le_of_ne hcol hmore

theorem execPk24Byte_positionOk {s t : State} (hs : s.Inv) (h : execPk24Byte s = .next t) : t.positionOk := by
  obtain ⟨hp, -, -, -, -, hfits, hadv⟩ := execPk24Byte_next.mp h
  obtain ⟨hbusy, hb, hcol, hch, hocur, hrest⟩ := (phaseOk_pix24 hp).mp hs.phaseOk
  have henc : (emitted (s.sample (sampleIndex24 s)) s).encoding := hs.encoding hbusy
  exact henc.positionOk_advancePixel
    ⟨hp, hb, hcol, hch, (emitted_ocur_toNat hfits).trans (congrArg (· + 1) hocur), hrest⟩ hadv

theorem execPadByte_positionOk {s t : State} (hs : s.Inv) (h : execPadByte s = .next t) : t.positionOk := by
  obtain ⟨hp, hle, -, hfits, hcases⟩ := execPadByte_next.mp h
  obtain ⟨hbusy, hpad, hlt, hcol, hnb, hch, hocur, hacc, hhdr⟩ := (phaseOk_padw hp).mp hs.phaseOk
  have henc := hs.encoding hbusy
  have hocur' : (emitted 0x00#8 s).ocur.toNat = s.rowStart + s.rbu.toNat + (s.pcnt.toNat + 1) :=
    (emitted_ocur_toNat hfits).trans (congrArg (· + 1) hocur)
  rcases hcases with ⟨hmore, rfl⟩ | ⟨hlast, hrow⟩
  · have hpcnt : (BitVec.ofNat 2 (s.pcnt.toNat + 1)).toNat = s.pcnt.toNat + 1 := Nat.mod_eq_of_lt (by omega)
    have henc' : State.encoding { emitted 0x00#8 s with pcnt := BitVec.ofNat 2 (s.pcnt.toNat + 1) } := henc
    refine henc'.positionOk (henc'.phaseOk_of_padwOk hp ⟨hpad, hpcnt.trans_lt hmore, hcol, hnb, hch, ?_, hacc, hhdr⟩)
    rw [hpcnt]
    exact hocur'
  · obtain ⟨-, rfl⟩ := nextRow_next.mp hrow
    have hprb := henc.configOk.prb_eq
    have hend : (emitted 0x00#8 s).ocur.toNat = s.rowStart + s.prb.toNat := by omega
    exact State.rowDone.positionOk_rowAfter ⟨henc, hend, ⟨hch, hacc, hnb, rfl⟩, hhdr⟩

theorem emitted_memoryOk {b : Byte} {s : State} (h : s.memoryOk) (hb : s.canEmit) : (emitted b s).memoryOk := by
  obtain ⟨hpix, hout, hsizes⟩ := h
  exact ⟨hpix, memWf_memWrite _ _ _ _ hb.1 hout, hsizes⟩

/-- A sequencer step keeps the invariant where it leads to a good position: its frame leaves the configuration, and at
most one backed byte of `OUT` is written. -/
theorem State.Inv.of_sequencerFrame {s t : State} (hs : s.Inv) (hf : sequencerFrame s t) (ht : t.positionOk) : t.Inv := by
  obtain ⟨hmem, hcfg, -, -⟩ := hs
  have hkept : t.memoryOk ∧ (t.cfgv = true → t.configOk) := by
    rcases hf with hf | ⟨b, hb, hf⟩ <;> rw [hf]
    · exact ⟨hmem, hcfg⟩
    · exact ⟨emitted_memoryOk hmem hb, hcfg⟩
  exact ⟨hkept.1, hkept.2, ht⟩

theorem execCfg_inv {w k : Word} {b : BitVec 16} {s t : State} (hs : s.Inv) (h : execCfg w k b s = .next t) : t.Inv := by
  obtain ⟨hmem, -, -, hdone⟩ := hs
  obtain ⟨hp, hd, ⟨hb, rfl⟩ | ⟨-, rfl⟩⟩ := execCfg_next.mp h
  · exact ⟨hmem, fun _ => configure_configOk s hd hb, phaseOk_of_idle hp, hdone⟩
  · exact ⟨hmem, fun hc => (nomatch hc), phaseOk_of_idle hp, hdone⟩

theorem execEnc_inv {n : BitVec 64} {s t : State} (hs : s.Inv) (h : execEnc n s = .next t) : t.Inv := by
  obtain ⟨hmem, hcfg, -, -⟩ := hs
  obtain ⟨hp, hc, hpix, hout, ⟨-, rfl⟩ | ⟨hreq, rfl⟩⟩ := execEnc_next.mp h
  · exact ⟨hmem, hcfg, phaseOk_of_idle hp, fun hd => (nomatch hd)⟩
  · have henc : (startEncode n { s with done := false, ocur := 0 }).encoding :=
      ⟨hcfg hc, hc, rfl, rfl, hreq, (hcfg hc).height_pos, hpix, hout⟩
    exact ⟨hmem, hcfg, henc.positionOk (henc.phaseOk_of_hdrOk rfl
      ⟨Nat.zero_le _, fieldSize_pos _, rfl, rfl, rfl, rfl, rfl, rfl, rfl⟩)⟩

/-- Every instruction keeps the invariant (R49). -/
theorem exec_inv {i : Instr} {s t : State} (hs : s.Inv) (h : exec i s = .next t) : t.Inv := by
  rcases exec_cases h with ⟨w, k, b, -, he⟩ | ⟨n, -, he⟩ | ⟨k, v, -, he, -⟩ | ⟨-, he⟩ | ⟨-, he⟩ | ⟨-, he⟩ | ⟨-, he⟩
  · exact execCfg_inv hs he
  · exact execEnc_inv hs he
  · exact hs.of_sequencerFrame (emitField_frame he) (emitField_positionOk hs he)
  · exact hs.of_sequencerFrame (execPk1Shift_frame he) (execPk1Shift_positionOk hs he)
  · exact hs.of_sequencerFrame (execPk1Flush_frame he) (execPk1Flush_positionOk hs he)
  · exact hs.of_sequencerFrame (execPk24Byte_frame he) (execPk24Byte_positionOk hs he)
  · exact hs.of_sequencerFrame (execPadByte_frame he) (execPadByte_positionOk hs he)

/-- The invariant does not speak of the host's list. -/
theorem State.Inv.with_host {s : State} (hs : s.Inv) (l : List HostAction) : State.Inv { s with host := l } := hs

/-- Settles O46: an instruction keeps the invariant; a reset returns to the reset registers, and a host write to one
backed cell keeps the form of its memory. -/
theorem everyStepKeepsInvariant : Obligations.EveryStepKeepsInvariant := by
  intro s t hs h
  have ⟨hmem, hcfg, hphase, hdone⟩ := hs
  have ⟨hpix, hout, hsizes⟩ := hmem
  rcases step_cases h with ⟨i, r, -, hr, he⟩ | ⟨rest, -, rfl⟩ | ⟨i, v, rest, -, hi, rfl⟩ | ⟨a, v, rest, -, ha, -, rfl⟩ |
    ⟨-, ht⟩
  · rw [hr] at he
    exact exec_inv (hs.with_host r.host) he
  · exact ⟨hmem, fun hc => (nomatch hc), trivial, fun hd => (nomatch hd)⟩
  · exact ⟨⟨memWf_memWrite _ _ _ _ hi hpix, hout, hsizes⟩, hcfg, hphase, hdone⟩
  · exact ⟨⟨hpix, memWf_memWrite _ _ _ _ ha hout, hsizes⟩, hcfg, hphase, hdone⟩
  · rw [ht]
    exact hs.with_host t.host

end Sys2Proof.Machine

/-!
PROOFS. The samples a step depends on (R62, R69, R128). Other contents are put in `PIX` under each operation, each
instruction and each step: all but the two packers that read are indifferent to them, and those two ask for one sample each,
whose index lies below `Required`.
-/

namespace Sys2Proof.Machine

/-- The state with other contents in `PIX`. -/
def State.withPix (p : List Host.Cell) (s : State) : State := { s with pix := p }

/-- The answer with other contents in the `PIX` of its next state. -/
def Result.withPix (p : List Host.Cell) (r : Result) : Result := andThen r fun t => .next (t.withPix p)

theorem Result.withPix_ite (p : List Host.Cell) (c : Prop) [Decidable c] (a b : Result) :
    Result.withPix p (if c then a else b) = if c then a.withPix p else b.withPix p :=
  apply_ite (Result.withPix p) c a b

theorem emit_withPix (p : List Host.Cell) (b : Byte) (s : State) : emit b (s.withPix p) = (emit b s).withPix p := by
  simp only [emit, Result.withPix_ite]
  rfl

/-- What goes on after an `Emit` is indifferent to `PIX` where it is by itself. -/
theorem emit_andThen_withPix (p : List Host.Cell) (b : Byte) (s : State) {f g : State → Result}
    (h : ∀ t, g (t.withPix p) = (f t).withPix p) :
    andThen (emit b (s.withPix p)) g = (andThen (emit b s) f).withPix p := by
  rw [emit_withPix]
  cases emit b s with
  | next t => exact h t
  | fault e => rfl
  | refused e => rfl

theorem nextRow_withPix (p : List Host.Cell) (s : State) : nextRow (s.withPix p) = (nextRow s).withPix p := by
  simp only [nextRow, Result.withPix_ite]
  rfl

theorem endRowData_withPix (p : List Host.Cell) (s : State) :
    endRowData (s.withPix p) = (endRowData s).withPix p := by
  simp only [endRowData, Result.withPix_ite, ← nextRow_withPix]
  rfl

theorem advanceHeader_withPix (p : List Host.Cell) (n : Nat) (s : State) :
    advanceHeader n (s.withPix p) = (advanceHeader n s).withPix p := by
  simp only [advanceHeader, apply_ite (State.withPix p)]
  rfl

theorem advancePixel_withPix (p : List Host.Cell) (s : State) :
    advancePixel (s.withPix p) = (advancePixel s).withPix p := by
  simp only [advancePixel, Result.withPix_ite, ← endRowData_withPix]
  rfl

theorem emitField_withPix (p : List Host.Cell) (k v : Nat) (s : State) :
    emitField k v (s.withPix p) = (emitField k v s).withPix p := by
  simp only [emitField, Result.withPix_ite]
  refine if_congr Iff.rfl (if_congr Iff.rfl ?_ rfl) rfl
  exact emit_andThen_withPix p _ s fun t => congrArg Host.Outcome.next (advanceHeader_withPix p _ t)

theorem emitPalette_withPix (p : List Host.Cell) (k v : Nat) (s : State) :
    emitPalette k v (s.withPix p) = (emitPalette k v s).withPix p := by
  simp only [emitPalette, Result.withPix_ite, ← emitField_withPix]
  rfl

theorem execCfg_withPix (p : List Host.Cell) (w k : Word) (b : BitVec 16) (s : State) :
    execCfg w k b (s.withPix p) = (execCfg w k b s).withPix p := by
  simp only [execCfg, Result.withPix_ite]
  rfl

theorem execEnc_withPix (p : List Host.Cell) (n : BitVec 64) (s : State) :
    execEnc n (s.withPix p) = (execEnc n s).withPix p := by
  simp only [execEnc, Result.withPix_ite]
  rfl

theorem execPk1Flush_withPix (p : List Host.Cell) (s : State) :
    execPk1Flush (s.withPix p) = (execPk1Flush s).withPix p := by
  simp only [execPk1Flush, Result.withPix_ite]
  refine if_congr Iff.rfl (if_congr Iff.rfl ?_ rfl) rfl
  refine emit_andThen_withPix p _ s fun t => ?_
  rw [Result.withPix_ite, ← endRowData_withPix]
  rfl

theorem execPadByte_withPix (p : List Host.Cell) (s : State) :
    execPadByte (s.withPix p) = (execPadByte s).withPix p := by
  simp only [execPadByte, Result.withPix_ite]
  refine if_congr Iff.rfl (if_congr Iff.rfl ?_ rfl) rfl
  refine emit_andThen_withPix p _ s fun t => ?_
  rw [Result.withPix_ite, ← nextRow_withPix]
  rfl

theorem eq_next_withPix {p : List Host.Cell} {r r' : Result} {t : State} (he : r' = r.withPix p) (h : r = .next t) :
    r' = .next (t.withPix p) := by
  rw [he, h]
  rfl

/-- The other contents agree with `PIX` on the one sample the state's packer reads next, if it reads one (R173, R181). -/
def State.agreesOnRead (p : List Host.Cell) (s : State) : Prop :=
  (s.phase = .pix1 → s.col.toNat < s.width.toNat → (s.withPix p).sample (pixelNumber s) = s.sample (pixelNumber s)) ∧
    (s.phase = .pix24 → (s.withPix p).sample (sampleIndex24 s) = s.sample (sampleIndex24 s))

theorem execPk1Shift_withPix {p : List Host.Cell} {s t : State} (hread : s.agreesOnRead p)
    (h : execPk1Shift s = .next t) : execPk1Shift (s.withPix p) = .next (t.withPix p) := by
  obtain ⟨hp, hnb, hcol, hadmitted, hbacked, rfl⟩ := execPk1Shift_next.mp h
  have hsample := hread.1 hp hcol
  exact execPk1Shift_next.mpr
    ⟨hp, hnb, hcol, hadmitted, hbacked, congrArg (fun v => shiftIn v (s.withPix p)) hsample.symm⟩

theorem execPk24Byte_withPix {p : List Host.Cell} {s t : State} (hread : s.agreesOnRead p)
    (h : execPk24Byte s = .next t) : execPk24Byte (s.withPix p) = .next (t.withPix p) := by
  obtain ⟨hp, hch, hadmitted, hbacked, hout, hfits, hadv⟩ := execPk24Byte_next.mp h
  have hsample := hread.2 hp
  refine execPk24Byte_next.mpr ⟨hp, hch, hadmitted, hbacked, hout, hfits, eq_next_withPix ?_ hadv⟩
  rw [← advancePixel_withPix, ← hsample]
  rfl

/-- An instruction depends on `PIX` through the one sample its packer reads. -/
theorem exec_withPix {p : List Host.Cell} {i : Instr} {s t : State} (hread : s.agreesOnRead p)
    (h : exec i s = .next t) : exec i (s.withPix p) = .next (t.withPix p) := by
  cases i with
  | cfg w k b => exact eq_next_withPix (execCfg_withPix p w k b s) h
  | enc n => exact eq_next_withPix (execEnc_withPix p n s) h
  | hdrByte =>
    obtain ⟨hfidx, hpal, hf⟩ := execHdrByte_next.mp h
    exact execHdrByte_next.mpr ⟨hfidx, hpal, eq_next_withPix (emitField_withPix p _ _ s) hf⟩
  | pk1Shift => exact execPk1Shift_withPix hread h
  | pk1Flush => exact eq_next_withPix (execPk1Flush_withPix p s) h
  | pk24Byte => exact execPk24Byte_withPix hread h
  | padByte => exact eq_next_withPix (execPadByte_withPix p s) h
  | hfPal0 => exact eq_next_withPix (emitPalette_withPix p _ _ s) h
  | hfPal1 => exact eq_next_withPix (emitPalette_withPix p _ _ s) h
  | _ => exact eq_next_withPix (emitField_withPix p _ _ s) h

/-- What a fetch gives, with other contents in the `PIX` of its state. -/
def Fetched.withPix (p : List Host.Cell) : Fetched → Fetched
  | .run i s => .run i (s.withPix p)
  | .settle s => .settle (s.withPix p)
  | .stuck why => .stuck why
  | .refuse why => .refuse why

theorem fetchSequencer_of_idle {s : State} (hp : s.phase = .idle) : fetchSequencer s = .settle s := if_pos hp

/-- A host that waits for `BUSY = 0` goes on once the block is idle. -/
theorem fetch_of_host_wait_idle {s : State} {rest : List HostAction} (hs : s.host = .wait :: rest)
    (hp : s.phase = .idle) : fetch s = .settle { s with host := rest } := by
  rw [fetch, hs]
  exact if_pos hp

/-- `DISP` selects a micro-operation in every busy state (R100). -/
theorem exists_decodeDisp_of_busy {s : State} (hp : s.phase ≠ .idle) : ∃ i, decodeDisp s.disp = .ok i := by
  rw [decodeDisp_disp]
  cases hs : s.phase with
  | idle => exact absurd hs hp
  | pix1 => cases s.flush <;> exact ⟨_, rfl⟩
  | _ => exact ⟨_, rfl⟩

theorem fetchSequencer_withPix (p : List Host.Cell) (s : State) :
    fetchSequencer (s.withPix p) = (fetchSequencer s).withPix p := by
  by_cases hp : s.phase = .idle
  · rw [fetchSequencer_of_idle hp, fetchSequencer_of_idle (s := s.withPix p) hp]
    rfl
  · obtain ⟨i, hi⟩ := exists_decodeDisp_of_busy hp
    rw [fetchSequencer_of_decodeDisp hi, fetchSequencer_of_decodeDisp (s := s.withPix p) hi]
    rfl

/-- A host that leaves the block to itself does so whatever `PIX` holds. -/
theorem fetch_withPix (p : List Host.Cell) {s : State} (hs : s.hostStandsBy) :
    fetch (s.withPix p) = (fetch s).withPix p := by
  rcases hs with hs | ⟨rest, hs⟩ | ⟨rest, hs⟩
  · rw [fetch_of_host_nil hs, fetch_of_host_nil (s := s.withPix p) hs, fetchSequencer_withPix]
  · by_cases hp : s.phase = .idle
    · rw [fetch_of_host_wait_idle hs hp, fetch_of_host_wait_idle (s := s.withPix p) hs hp]
      rfl
    · rw [fetch_of_host_wait hs hp, fetch_of_host_wait (s := s.withPix p) hs hp, fetchSequencer_withPix]
  · rw [fetch_of_host_tick hs, fetch_of_host_tick (s := s.withPix p) hs]
    exact fetchSequencer_withPix p { s with host := rest }

theorem step_withPix {p : List Host.Cell} {s t : State} (hread : s.agreesOnRead p) (hs : s.hostStandsBy)
    (h : step s = .next t) : step (s.withPix p) = .next (t.withPix p) := by
  have hfetch := fetch_withPix p hs
  cases hf : fetch s with
  | run i r =>
    rw [hf] at hfetch
    rw [step_of_fetch_run hf, fetch_run hf] at h
    rw [step_of_fetch_run hfetch, fetch_run hf]
    exact exec_withPix (s := { s with host := r.host }) hread h
  | settle r =>
    rw [hf] at hfetch
    rw [step_of_fetch_settle hf] at h
    cases h
    exact step_of_fetch_settle hfetch
  | stuck why => simp [step, hf] at h
  | refuse why => simp [step, hf] at h

theorem pixelNumber_lt {s : State} (hrow : s.row.toNat < s.height.toNat) (hcol : s.col.toNat < s.width.toNat) :
    pixelNumber s < s.width.toNat * s.height.toNat := by
  have hnext : (s.row.toNat + 1) * s.width.toNat ≤ s.height.toNat * s.width.toNat := Nat.mul_le_mul_right _ hrow
  rw [Nat.succ_mul] at hnext
  rw [Nat.mul_comm s.width.toNat]
  exact Nat.lt_of_lt_of_le (Nat.add_lt_add_left hcol _) hnext

theorem State.busyOk.row_lt {s : State} (h : s.busyOk) : s.row.toNat < s.height.toNat := by
  obtain ⟨-, -, -, -, hrow, -⟩ := h
  exact hrow

theorem State.busyOk.required_le {s : State} (h : s.busyOk) : s.requiredSamples ≤ s.pixlen.toNat := by
  obtain ⟨-, -, -, hreq, -⟩ := h
  exact hreq

theorem State.Inv.busyOk {s : State} (h : s.Inv) (hp : s.phase ≠ .idle) : s.busyOk := by
  have hphase := h.phaseOk
  cases hs : s.phase with
  | idle => exact absurd hs hp
  | hdr => exact ((phaseOk_hdr hs).mp hphase).1
  | pix1 => exact ((phaseOk_pix1 hs).mp hphase).1
  | pix24 => exact ((phaseOk_pix24 hs).mp hphase).1
  | padw => exact ((phaseOk_padw hs).mp hphase).1

/-- The sample `PK1.SHIFT` reads is one of the encode's `w * h` (R173). -/
theorem State.Inv.pixelNumber_lt_required {s : State} (h : s.Inv) (hp : s.phase = .pix1)
    (hcol : s.col.toNat < s.width.toNat) : pixelNumber s < s.requiredSamples := by
  obtain ⟨hbusy, hb, -⟩ := (phaseOk_pix1 hp).mp h.phaseOk
  rw [State.requiredSamples, required, if_pos hb]
  exact pixelNumber_lt hbusy.row_lt hcol

/-- The sample `PK24.BYTE` reads is one of the encode's `3 * w * h` (R181). -/
theorem State.Inv.sampleIndex24_lt_required {s : State} (h : s.Inv) (hp : s.phase = .pix24) :
    sampleIndex24 s < s.requiredSamples := by
  obtain ⟨hbusy, hb, hcol, -⟩ := (phaseOk_pix24 hp).mp h.phaseOk
  have hpixel := pixelNumber_lt hbusy.row_lt hcol
  rw [State.requiredSamples, required, if_neg (by omega), Nat.mul_assoc, sampleIndex24]
  omega

/-- Settles O47: the one sample a packer reads lies below `Required`, where the other contents agree. -/
theorem readsStayBelowRequired : Obligations.ReadsStayBelowRequired := by
  intro s hs
  refine ⟨hs.pixelNumber_lt_required, hs.sampleIndex24_lt_required, fun hp => (hs.busyOk hp).required_le,
    fun other hother => ?_⟩
  have hread : s.agreesOnRead other :=
    ⟨fun hp hcol => hother _ (hs.pixelNumber_lt_required hp hcol), fun hp => hother _ (hs.sampleIndex24_lt_required hp)⟩
  exact ⟨fun i t h => exec_withPix hread h, fun t hstands h => step_withPix hread hstands h⟩

end Sys2Proof.Machine

/-!
PROOFS. The accesses of the two memories (R62, R64, U5): where a `PixRead` or an `Emit` has no step, and that `Emit` is the
only write to `OUT`.
-/

namespace Sys2Proof.Machine

theorem pixRead_of_not_admitted {i : Nat} {s : State} {use : Byte → Result} (h : s.pixlen.toNat ≤ i) :
    pixRead i s use = .fault .pixNotAdmitted := if_neg (Nat.not_lt.mpr h)

theorem pixRead_of_not_backed {i : Nat} {s : State} {use : Byte → Result} (hi : i < s.pixlen.toNat) (h : s.pixSize ≤ i) :
    pixRead i s use = .fault .pixNotBacked := (if_pos hi).trans (if_neg (Nat.not_lt.mpr h))

/-- An `Emit` that is not backed stops the whole step. -/
theorem emit_andThen_of_not_backed {b : Byte} {s : State} {f : State → Result} (h : s.outSize ≤ s.ocur.toNat) :
    andThen (emit b s) f = .fault .outNotBacked := by
  rw [emit, if_neg (Nat.not_lt.mpr h)]
  rfl

theorem execPk1Shift_of_selected {s : State} (hp : s.phase = .pix1) (hnb : s.nbits.toNat < 8)
    (hcol : s.col.toNat < s.width.toNat) :
    execPk1Shift s = pixRead (pixelNumber s) s fun v => .next (shiftIn v s) := if_pos ⟨hp, hnb, hcol⟩

theorem execPk24Byte_of_selected {s : State} (hp : s.phase = .pix24) (hch : s.ch.toNat ≤ 2) :
    execPk24Byte s = pixRead (sampleIndex24 s) s fun v => andThen (emit v s) advancePixel :=
  (if_pos hp).trans (if_pos hch)

/-- Settles O31: the selected packer's step is the `PixRead` of its sample index. -/
theorem readPastPixlenIsStuck : Obligations.ReadPastPixlenIsStuck := by
  intro s
  refine ⟨fun hp hnb hcol hi => ?_, fun hp hch hi => ?_⟩
  · exact (execPk1Shift_of_selected hp hnb hcol).trans (pixRead_of_not_admitted hi)
  · exact (execPk24Byte_of_selected hp hch).trans (pixRead_of_not_admitted hi)

theorem flush_iff {s : State} : s.flush = true ↔ s.nbits.toNat = 8 ∨ s.col = s.width := by
  simp [State.flush, ← BitVec.toNat_inj]

theorem emitPalette_of_one {k v : Nat} {s : State} (hb : s.bpp = 1#16) : emitPalette k v s = emitField k v s := if_pos hb

/-- The header has palette fields at 1 bpp only (R159). -/
theorem bpp_eq_one_of_palette {s : State} {k : Nat} (hk : 15 ≤ k) (hf : k ≤ lastField s.bpp.toNat) : s.bpp = 1#16 := by
  unfold lastField at hf
  split at hf
  · exact BitVec.eq_of_toNat_eq (by assumption)
  · omega

/-- `HDR.BYTE` is the serializer's step with the field `FIDX` selects, where the header of the depth has that field. -/
theorem execHdrByte_of_selected {s : State} (hp : s.phase = .hdr) (hf : s.fidx.toNat ≤ lastField s.bpp.toNat) :
    execHdrByte s = emitField s.fidx.toNat (registerValue s s.fidx.toNat) s := by
  have hpal := fun hk => bpp_eq_one_of_palette (s := s) hk hf
  have hle := hf.trans (lastField_le_sixteen _)
  rw [execHdrByte, if_pos hp]
  generalize s.fidx.toNat = k at *
  rcases Nat.lt_or_ge k 15 with hlt | hge
  · interval_cases k <;> rfl
  · obtain rfl | rfl : k = 15 ∨ k = 16 := by omega
    all_goals exact emitPalette_of_one (hpal hge)

theorem emitField_of_not_backed {k v : Nat} {s : State} (hp : s.phase = .hdr) (hk : s.fidx.toNat = k)
    (hb : s.bidx.toNat < fieldSize k) (h : s.outSize ≤ s.ocur.toNat) : emitField k v s = .fault .outNotBacked :=
  (if_pos ⟨hp, hk⟩).trans ((if_pos hb).trans (emit_andThen_of_not_backed h))

theorem step_of_fetch_stuck {s : State} {why : Fault} (hf : fetch s = .stuck why) : step s = .fault why := by
  rw [step, hf]

/-- Settles O32: each step that is selected comes to its `PixRead` or its `Emit`, and a host write to its bounds check. -/
theorem unbackedAccessIsStuck : Obligations.UnbackedAccessIsStuck := by
  intro s
  refine ⟨fun hp hnb hcol hi hn => ?_, fun hp hch hi hn => ?_,
    fun hout => ⟨fun hp hf hb => ?_, fun hp hflush hnb => ?_, fun hp hch hread => ?_, fun hp hpcnt => ?_⟩,
    fun i v rest hs hi => ?_, fun a v rest hs ha => ?_⟩
  · exact (execPk1Shift_of_selected hp hnb hcol).trans (pixRead_of_not_backed hi hn)
  · exact (execPk24Byte_of_selected hp hch).trans (pixRead_of_not_backed hi hn)
  · exact (execHdrByte_of_selected hp hf).trans (emitField_of_not_backed hp rfl hb hout)
  · exact (if_pos ⟨hp, flush_iff.mpr hflush⟩).trans ((if_pos hnb).trans (emit_andThen_of_not_backed hout))
  · exact (execPk24Byte_of_selected hp hch).trans
      ((pixRead_eq hread.1 hread.2).trans (emit_andThen_of_not_backed hout))
  · exact (if_pos hp).trans ((if_pos hpcnt).trans (emit_andThen_of_not_backed hout))
  · exact step_of_fetch_stuck ((fetch_of_host_writePix hs).trans (if_neg (Nat.not_lt.mpr hi)))
  · exact step_of_fetch_stuck ((fetch_of_host_writeOut hs).trans (if_neg (Nat.not_lt.mpr ha)))

/-- What a sequencer step does to `OUT` and `OCUR`: nothing, or the one byte at `OCUR` (R64). -/
theorem sequencerFrame.outByte {s t : State} (h : sequencerFrame s t) :
    ((∀ a, t.outByte a = s.outByte a) ∧ t.ocur = s.ocur) ∨
      ((∀ a, a ≠ s.ocur.toNat → t.outByte a = s.outByte a) ∧ t.ocur.toNat = s.ocur.toNat + 1) := by
  rcases h with h | ⟨b, ⟨-, hfits⟩, h⟩ <;> rw [h]
  · exact .inl ⟨fun _ => rfl, rfl⟩
  · exact .inr ⟨fun a ha => (outByte_emitted b s a).trans (if_neg ha), emitted_ocur_toNat (b := b) hfits⟩

/-- `PK1.SHIFT` is the one sequencer step that emits nothing (R173). -/
theorem execPk1Shift_out {s t : State} (h : execPk1Shift s = .next t) :
    (∀ a, t.outByte a = s.outByte a) ∧ t.ocur = s.ocur := by
  obtain ⟨-, -, -, -, -, rfl⟩ := execPk1Shift_next.mp h
  exact ⟨fun _ => rfl, rfl⟩

theorem sequencerFrame.outByte_of_ne {s t : State} (h : sequencerFrame s t) {a : Nat} (ha : a ≠ s.ocur.toNat) :
    t.outByte a = s.outByte a := by
  rcases h.outByte with ⟨hout, -⟩ | ⟨hout, -⟩
  · exact hout a
  · exact hout a ha

/-- Settles O41: a command writes registers only, a sequencer step emits at most one byte, and while the block is busy the
host's only writes go to `PIX`. -/
theorem onlyEmitWritesOut : Obligations.OnlyEmitWritesOut := by
  refine ⟨fun i s t h => ?_, fun s t hp h a ha => ?_⟩
  · rcases exec_frame h with ⟨w, k, b, -, hc⟩ | ⟨n, hi, hc⟩ | ⟨hbusy, hf⟩
    · obtain ⟨-, -, ⟨-, rfl⟩ | ⟨-, rfl⟩⟩ := execCfg_next.mp hc <;> exact .inl ⟨fun _ => rfl, .inl rfl⟩
    · obtain ⟨-, -, -, -, ⟨-, rfl⟩ | ⟨-, rfl⟩⟩ := execEnc_next.mp hc <;> exact .inl ⟨fun _ => rfl, .inr ⟨rfl, n, hi⟩⟩
    · by_cases hi : i = .pk1Shift
      · subst hi
        obtain ⟨hout, hocur⟩ := execPk1Shift_out h
        exact .inl ⟨hout, .inl hocur⟩
      · rcases hf.outByte with ⟨hout, hocur⟩ | ⟨hout, hocur⟩
        · exact .inl ⟨hout, .inl hocur⟩
        · exact .inr ⟨hout, hocur, hi, hbusy⟩
  · rcases step_cases h with ⟨i, r, -, hr, he⟩ | ⟨rest, -, rfl⟩ | ⟨i, v, rest, -, -, rfl⟩ | ⟨-, -, -, -, -, hi, -⟩ |
      ⟨hi, -⟩
    · rw [hr] at he
      exact (exec_frame_of_busy (s := { s with host := r.host }) hp he).outByte_of_ne ha
    · rfl
    · rfl
    · exact absurd hi hp
    · exact absurd hi hp

end Sys2Proof.Machine

/-!
PROOFS. Where the contract's image holds its rows, and what a row depends on (R63, R77, R125, R140): the lengths of the
header and of a row give the place of every row, data byte and padding byte.
-/

namespace Sys2Proof.Machine

/-- A `flatMap` of pieces of one length has that length for each. -/
theorem length_flatMap_range {α : Type} {f : Nat → List α} {m : Nat} (hm : ∀ k, (f k).length = m) (n : Nat) :
    ((List.range n).flatMap f).length = n * m := by
  simp [List.length_flatMap, hm]

/-- Element `i` of piece `r`, where every piece has length `m`. -/
theorem getElem?_flatMap_range {α : Type} {f : Nat → List α} {m : Nat} (hm : ∀ k, (f k).length = m) {n r i : Nat}
    (hr : r < n) (hi : i < m) : ((List.range n).flatMap f)[r * m + i]? = (f r)[i]? := by
  induction n with
  | zero => omega
  | succ n ih =>
    rw [List.range_succ, List.flatMap_append, List.flatMap_singleton]
    have hlen := length_flatMap_range hm n
    rcases Nat.lt_succ_iff_lt_or_eq.mp hr with hlt | rfl
    · have hmul : (r + 1) * m ≤ n * m := Nat.mul_le_mul_right m hlt
      rw [Nat.succ_mul] at hmul
      rw [List.getElem?_append_left (by omega), ih hlt]
    · rw [List.getElem?_append_right (by omega), hlen, Nat.add_sub_cancel_left]

theorem littleEndian_length (n v : Nat) : (littleEndian n v).length = n := by simp [littleEndian]

/-- The fields before field `n` take the bytes before its offset (R101). -/
theorem length_fields (value : Nat → Nat) (n : Nat) :
    ((List.range n).flatMap fun k => littleEndian (fieldSize k) (value k)).length = fieldOffset n := by
  induction n with
  | zero => rfl
  | succ n ih =>
    rw [List.range_succ, List.flatMap_append, List.length_append, ih, List.flatMap_singleton, littleEndian_length,
      fieldOffset]

theorem headerBytes_length (w h b : Nat) : (headerBytes w h b).length = headerSize b :=
  (length_fields _ _).trans (fieldOffset_lastField b)

theorem row1Bytes_length (w : Nat) (pix : Nat → Byte) (q : Nat) :
    (row1Bytes w pix q).length = rowBytesUnpadded w 1 := by simp [row1Bytes]

theorem row24Bytes_length (w : Nat) (pix : Nat → Byte) (q : Nat) : (row24Bytes w pix q).length = 3 * w :=
  (length_flatMap_range (m := 3) (fun _ => rfl) w).trans (Nat.mul_comm w 3)

theorem rowBytesUnpadded_twentyFour (w : Nat) : rowBytesUnpadded w 24 = 3 * w := by
  rw [rowBytesUnpadded, ceilDiv]
  omega

/-- The data bytes of output row `r`, without the padding (R125). -/
def rowData (w b : Nat) (pix : Nat → Byte) (r : Nat) : List Byte :=
  if b = 1 then row1Bytes w pix r else row24Bytes w pix r

theorem rowBytes_eq (w b : Nat) (pix : Nat → Byte) (r : Nat) :
    rowBytes w b pix r = rowData w b pix r ++ List.replicate (padding (rowBytesUnpadded w b)) 0x00#8 := rfl

theorem rowData_length {w b : Nat} (hb : b = 1 ∨ b = 24) (pix : Nat → Byte) (r : Nat) :
    (rowData w b pix r).length = rowBytesUnpadded w b := by
  rcases hb with rfl | rfl
  · exact row1Bytes_length w pix r
  · exact (row24Bytes_length w pix r).trans (rowBytesUnpadded_twentyFour w).symm

theorem rowBytes_length {w b : Nat} (hb : b = 1 ∨ b = 24) (pix : Nat → Byte) (r : Nat) :
    (rowBytes w b pix r).length = paddedRowBytes w b := by
  rw [rowBytes_eq, List.length_append, rowData_length hb, List.length_replicate, paddedRowBytes]

/-- Row `r` of the image starts at `HSZ + r * PRB` (R63). -/
theorem encodeImage_getElem?_row {w h b r i : Nat} (hb : b = 1 ∨ b = 24) (pix : Nat → Byte) (hr : r < h)
    (hi : i < paddedRowBytes w b) :
    (encodeImage w h b pix)[headerSize b + r * paddedRowBytes w b + i]? = (rowBytes w b pix r)[i]? := by
  have hlen := headerBytes_length w h b
  rw [encodeImage, List.getElem?_append_right (by omega), hlen, Nat.add_assoc, Nat.add_sub_cancel_left, pixelData,
    getElem?_flatMap_range (rowBytes_length hb pix) hr hi]

/-- The data bytes of a row come first. -/
theorem encodeImage_getElem?_data {w h b r i : Nat} (hb : b = 1 ∨ b = 24) (pix : Nat → Byte) (hr : r < h)
    (hi : i < rowBytesUnpadded w b) :
    (encodeImage w h b pix)[headerSize b + r * paddedRowBytes w b + i]? = (rowData w b pix r)[i]? := by
  rw [encodeImage_getElem?_row hb pix hr (hi.trans_le (Nat.le_add_right _ _)), rowBytes_eq,
    List.getElem?_append_left (hi.trans_eq (rowData_length hb pix r).symm)]

/-- The padding bytes of a row come after its data bytes. -/
theorem encodeImage_getElem?_padding {w h b r n : Nat} (hb : b = 1 ∨ b = 24) (pix : Nat → Byte) (hr : r < h)
    (hn : n < padding (rowBytesUnpadded w b)) :
    (encodeImage w h b pix)[headerSize b + r * paddedRowBytes w b + rowBytesUnpadded w b + n]? = some 0x00#8 := by
  have hlen := rowData_length (w := w) hb pix r
  rw [Nat.add_assoc (headerSize b + _), encodeImage_getElem?_row hb pix hr (Nat.add_lt_add_left hn _), rowBytes_eq,
    List.getElem?_append_right (by omega), hlen, Nat.add_sub_cancel_left, List.getElem?_replicate_of_lt hn]

/-- Bytes `3c`, `3c + 1` and `3c + 2` of a 24-bit row are B, G and R of column `c` (R180). -/
theorem row24Bytes_getElem? {w c k : Nat} (pix : Nat → Byte) (q : Nat) (hc : c < w) (hk : k < 3) :
    (row24Bytes w pix q)[3 * c + k]? = some (pix (3 * (q * w + c) + (2 - k))) := by
  rw [row24Bytes, Nat.mul_comm 3 c, getElem?_flatMap_range (m := 3) (fun _ => rfl) hc hk]
  interval_cases k <;> rfl

/-- Settles O38: each byte's place in its row, and the row's place in the image. -/
theorem imageHoldsEveryPixel : Obligations.ImageHoldsEveryPixel := by
  intro w h r pix _ hr
  refine ⟨fun c k hc hk => ?_, fun j hj => ?_, fun b n hb hn => encodeImage_getElem?_padding hb pix hr hn⟩
  · have hdata : 3 * c + k < rowBytesUnpadded w 24 := by
      rw [rowBytesUnpadded_twentyFour]
      omega
    exact (encodeImage_getElem?_data (.inr rfl) pix hr hdata).trans (row24Bytes_getElem? pix r hc hk)
  · exact encodeImage_getElem?_data (.inl rfl) pix hr hj

/-- A packed byte depends on the samples of its row only (R170). -/
theorem row1Byte_congr {w q : Nat} {pix pix' : Nat → Byte} (h : ∀ c, c < w → pix (q * w + c) = pix' (q * w + c))
    (j : Nat) : row1Byte w pix q j = row1Byte w pix' q j := by
  unfold row1Byte
  congr 2
  refine List.map_congr_left fun k _ => ?_
  split
  · rw [Nat.add_assoc, h _ (by assumption)]
  · rfl

theorem row1Bytes_congr {w q : Nat} {pix pix' : Nat → Byte} (h : ∀ c, c < w → pix (q * w + c) = pix' (q * w + c)) :
    row1Bytes w pix q = row1Bytes w pix' q :=
  List.map_congr_left fun j _ => row1Byte_congr h j

theorem row24Bytes_congr {w q : Nat} {pix pix' : Nat → Byte}
    (h : ∀ i, 3 * q * w ≤ i → i < 3 * q * w + 3 * w → pix i = pix' i) : row24Bytes w pix q = row24Bytes w pix' q := by
  have hstart : 3 * q * w = 3 * (q * w) := Nat.mul_assoc 3 q w
  refine List.flatMap_congr fun c hc => ?_
  have hcol : c < w := List.mem_range.mp hc
  rw [h (3 * (q * w + c) + 2) (by omega) (by omega), h (3 * (q * w + c) + 1) (by omega) (by omega),
    h (3 * (q * w + c)) (by omega) (by omega)]

/-- Settles O39: the padding depends on no sample, and the data bytes of a row on its own samples. -/
theorem rowsAreIndependent : Obligations.RowsAreIndependent := by
  intro w b r pix pix' hb h1 h24
  have hdata : rowData w b pix r = rowData w b pix' r := by
    rcases hb with rfl | rfl
    · exact row1Bytes_congr fun c hc => h1 _ rfl (Nat.le_add_right _ _) (Nat.add_lt_add_left hc _)
    · exact row24Bytes_congr fun i => h24 i rfl
  rw [rowBytes_eq, rowBytes_eq, hdata]

end Sys2Proof.Machine

/-!
PROOFS. The three encodings (R90 to R101): a command word is its fields in order, so it has one meaning; a vector or an index
is read as an instruction exactly where that instruction's row of the opcode table accepts it; and what is read as nothing
is refused.
-/

namespace Sys2Proof.Machine

/-! ### Command words -/

theorem decodeCommand_cfgWord (width height : Word) (bpp : BitVec 16) :
    decodeCommand (cfgWord width height bpp) = .ok (.cfg width height bpp) :=
  decodeCommand_eq_ok.mpr (.inl ⟨by simp, by simp, by simp⟩)

theorem decodeCommand_encWord (pixlen : BitVec 64) : decodeCommand (encWord pixlen) = .ok (.enc pixlen) :=
  decodeCommand_eq_ok.mpr (.inr ⟨by simp, by simp, by simp⟩)

/-- Settles O1: a command word gives its operands back field by field; the other codes are constants. -/
theorem decodeInvertsEncode : Obligations.DecodeInvertsEncode := by
  intro i
  cases i with
  | cfg width height bpp => exact decodeCommand_cfgWord width height bpp
  | enc pixlen => exact decodeCommand_encWord pixlen
  | _ => rfl

/-- The fields of format `C` make up the whole word (R91). -/
theorem cfgWord_fields {w : CmdWord} (hop : cmdOpcode w = 0x01#8) (hres : cmdReservedC w = 0#8) :
    cfgWord (cmdWidth w) (cmdHeight w) (cmdBpp w) = w := by
  rw [cfgWord, ← hop, ← hres]
  simp only [cmdOpcode, cmdReservedC, cmdBpp, cmdHeight, cmdWidth, BitVec.extractLsb'_append_extractLsb'_eq_extractLsb']
  exact extract_whole w

/-- The fields of format `E` make up the whole word (R93). -/
theorem encWord_fields {w : CmdWord} (hop : cmdOpcode w = 0x02#8) (hres : cmdReservedE w = 0#24) :
    encWord (cmdPixlen w) = w := by
  rw [encWord, ← hop, ← hres]
  simp only [cmdOpcode, cmdReservedE, cmdPixlen, BitVec.extractLsb'_append_extractLsb'_eq_extractLsb']
  exact extract_whole w

/-- Settles O2: the fields that were read make up the word they were read from; the converse is O1. -/
theorem commandWordHasOneMeaning : Obligations.CommandWordHasOneMeaning := by
  refine fun w i => ⟨fun h => ?_, fun h => ?_⟩
  · rcases decodeCommand_eq_ok.mp h with ⟨hop, hres, rfl⟩ | ⟨hop, hres, rfl⟩
    · exact congrArg Code.command (cfgWord_fields hop hres)
    · exact congrArg Code.command (encWord_fields hop hres)
  · have hdec : decode (encode i) = .ok i := decodeInvertsEncode i
    rwa [h] at hdec

/-! ### The rows of the opcode table -/

theorem space_of_accepts {r : Row} {c : Code} (h : r.accepts c = true) : r.space = c.space :=
  beq_iff_eq.mp (Bool.and_eq_true_iff.mp h).1

theorem space_of_decodeDisp {d : BitVec 4} {i : Instr} (h : decodeDisp d = .ok i) : i.row.space = .disp := by
  have hall : ∀ d, (decodeDisp d).toOption.all (·.row.space == .disp) = true := by decide
  simpa [h, Except.toOption] using hall d

theorem space_of_decodeFidx {f : BitVec 5} {i : Instr} (h : decodeFidx f = .ok i) : i.row.space = .fidx := by
  have hall : ∀ f, (decodeFidx f).toOption.all (·.row.space == .fidx) = true := by decide
  simpa [h, Except.toOption] using hall f

/-- A vector means an instruction exactly where the instruction's row accepts it, whatever the bit `F` the row ignores
(R98, R99). A row has one instruction, since only commands have operands. -/
theorem decodeDisp_eq_ok {d : BitVec 4} {i : Instr} : decodeDisp d = .ok i ↔ i.row.accepts (.disp d) = true := by
  cases i with
  | cfg | enc =>
    exact iff_of_false (fun h => absurd (space_of_decodeDisp h) nofun) (fun h => absurd (space_of_accepts h) nofun)
  | _ => revert d; decide

/-- An index means an instruction exactly where the instruction's row accepts it (R98, R101). -/
theorem decodeFidx_eq_ok {f : BitVec 5} {i : Instr} : decodeFidx f = .ok i ↔ i.row.accepts (.fidx f) = true := by
  cases i with
  | cfg | enc =>
    exact iff_of_false (fun h => absurd (space_of_decodeFidx h) nofun) (fun h => absurd (space_of_accepts h) nofun)
  | _ => revert f; decide

theorem accepts_of_decodeCommand {w : CmdWord} {i : Instr} (h : decodeCommand w = .ok i) :
    i.row.accepts (.command w) = true := by
  rcases decodeCommand_eq_ok.mp h with ⟨hop, hres, rfl⟩ | ⟨hop, hres, rfl⟩
  · exact (cfgRow_accepts w _ _ _).mpr ⟨hop, hres⟩
  · exact (encRow_accepts w _).mpr ⟨hop, hres⟩

/-- A row says nothing of a command's operands, so a word it accepts may be read with others. -/
theorem decodeCommand_of_accepts {w : CmdWord} {i : Instr} (h : i.row.accepts (.command w) = true) :
    ∃ j, decodeCommand w = .ok j ∧ j.row = i.row := by
  cases i with
  | cfg width height bpp =>
    obtain ⟨hop, hres⟩ := (cfgRow_accepts w width height bpp).mp h
    exact ⟨_, decodeCommand_eq_ok.mpr (.inl ⟨hop, hres, rfl⟩), rfl⟩
  | enc pixlen =>
    obtain ⟨hop, hres⟩ := (encRow_accepts w pixlen).mp h
    exact ⟨_, decodeCommand_eq_ok.mpr (.inr ⟨hop, hres, rfl⟩), rfl⟩
  | _ => exact absurd (space_of_accepts h) nofun

/-- Settles O3: in the two spaces without operands a code is read as an instruction exactly where its row accepts it; a
command word as some instruction of the row. -/
theorem decodeAgreesWithTable : Obligations.DecodeAgreesWithTable := by
  intro c i
  cases c with
  | command w => exact ⟨accepts_of_decodeCommand, decodeCommand_of_accepts⟩
  | disp d => exact ⟨decodeDisp_eq_ok.mp, fun h => ⟨i, decodeDisp_eq_ok.mpr h, rfl⟩⟩
  | fidx f => exact ⟨decodeFidx_eq_ok.mp, fun h => ⟨i, decodeFidx_eq_ok.mpr h, rfl⟩⟩

/-! ### Reserved command words -/

/-- A command word of one of R95's three reserved forms. -/
def ReservedForm (w : CmdWord) : Prop :=
  (cmdOpcode w ≠ 0x01#8 ∧ cmdOpcode w ≠ 0x02#8) ∨ (cmdOpcode w = 0x01#8 ∧ cmdReservedC w ≠ 0#8) ∨
    (cmdOpcode w = 0x02#8 ∧ cmdReservedE w ≠ 0#24)

theorem decodeCommand_of_reservedForm {w : CmdWord} (h : ReservedForm w) : ∃ why, decodeCommand w = .error why := by
  rcases h with ⟨hcfg, henc⟩ | ⟨hop, hres⟩ | ⟨hop, hres⟩
  · exact ⟨.reservedOpcode, (if_neg hcfg).trans (if_neg henc)⟩
  · exact ⟨.reservedBits, (if_pos hop).trans (if_neg hres)⟩
  · have hcfg : cmdOpcode w ≠ 0x01#8 := by rw [hop]; decide
    exact ⟨.reservedBits, (if_neg hcfg).trans ((if_pos hop).trans (if_neg hres))⟩

theorem decodeCommand_of_not_reservedForm {w : CmdWord} (h : ¬ ReservedForm w) :
    (∃ width height bpp, decodeCommand w = .ok (.cfg width height bpp)) ∨
      (∃ pixlen, decodeCommand w = .ok (.enc pixlen)) := by
  by_cases hcfg : cmdOpcode w = 0x01#8
  · have hres : cmdReservedC w = 0#8 := not_not.mp fun hres => h (.inr (.inl ⟨hcfg, hres⟩))
    exact .inl ⟨_, _, _, decodeCommand_eq_ok.mpr (.inl ⟨hcfg, hres, rfl⟩)⟩
  · have henc : cmdOpcode w = 0x02#8 := not_not.mp fun henc => h (.inl ⟨hcfg, henc⟩)
    have hres : cmdReservedE w = 0#24 := not_not.mp fun hres => h (.inr (.inr ⟨henc, hres⟩))
    exact .inr ⟨_, decodeCommand_eq_ok.mpr (.inr ⟨henc, hres, rfl⟩)⟩

theorem fetchCommand_of_error {w : CmdWord} {why : DecodeError} {s : State} (hp : s.phase = .idle)
    (hw : decodeCommand w = .error why) : fetchCommand w s = .refuse (.reservedWord why) := by
  rw [fetchCommand, if_pos hp, hw]

/-- Settles O4: a reserved form is refused in the fetch, whatever the operands; outside the three forms the opcode is that
of a command and its reserved bits are zero. -/
theorem reservedCommandWordsRefused : Obligations.ReservedCommandWordsRefused := by
  intro w rest s hp hs
  split
  · rename_i h
    obtain ⟨why, hw⟩ := decodeCommand_of_reservedForm h
    exact ⟨why, step_of_fetch_refuse ((fetch_of_host_command hs).trans (fetchCommand_of_error hp hw))⟩
  · rename_i h
    exact decodeCommand_of_not_reservedForm h

/-- Settles O5: twelve closed words, each decoded by evaluation. -/
theorem specWordsDecode : Obligations.SpecWordsDecode := by
  unfold Obligations.SpecWordsDecode
  decide

/-! ### The sequencer's dispatch -/

/-- R172: with `NBITS` and `COL` in their ranges, `PK1.FLUSH` is selected exactly where `PK1.SHIFT` is not. -/
theorem flush_iff_not_shift {s : State} (hnb : s.nbits.toNat ≤ 8) (hcol : s.col.toNat ≤ s.width.toNat) :
    (s.nbits.toNat = 8 ∨ s.col = s.width) ↔ ¬ (s.nbits.toNat < 8 ∧ s.col.toNat < s.width.toNat) := by
  rw [← BitVec.toNat_inj]
  omega

/-- Where `PK1.SHIFT` is selected, `F` is 0. -/
theorem flush_eq_false {s : State} (hnb : s.nbits.toNat < 8) (hcol : s.col.toNat < s.width.toNat) :
    s.flush = false := by
  rw [← Bool.not_eq_true, flush_iff, flush_iff_not_shift hnb.le hcol.le]
  exact not_not.mpr ⟨hnb, hcol⟩

/-- Settles O6: the low bits of `DISP` are `PHASE`, and `F` decides between the two micro-operations of `PIX1`. -/
theorem dispatchSelectsMicroOperation : Obligations.DispatchSelectsMicroOperation := by
  intro s
  rw [decodeDisp_disp]
  refine ⟨fun hp => ?_, fun hp => ?_, fun hp hflush => ?_, fun hp hshift => ?_, fun hp => ?_, fun hp => ?_,
    flush_iff_not_shift⟩
  · rw [hp]
  · rw [hp]
  · rw [hp]
    exact if_pos (flush_iff.mpr hflush)
  · simp [hp, flush_eq_false hshift.1 hshift.2]
  · rw [hp]
  · rw [hp]

/-! ### The field emitters -/

/-- `HDR.BYTE` is the emitter its decoder of `FIDX` names: the two tables are one (R101). -/
theorem execHdrByte_of_decodeFidx {s : State} {i : Instr} (hp : s.phase = .hdr) (hi : decodeFidx s.fidx = .ok i) :
    execHdrByte s = exec i s := by
  rw [execHdrByte, if_pos hp]
  unfold decodeFidx at hi
  generalize s.fidx.toNat = k at hi
  split at hi <;> cases hi <;> rfl

theorem execHdrByte_of_reserved {s : State} (hp : s.phase = .hdr) (hf : 17 ≤ s.fidx.toNat) :
    execHdrByte s = .refused .reservedFidx := by
  obtain ⟨n, hn⟩ := Nat.exists_eq_add_of_le' hf
  rw [execHdrByte, if_pos hp, hn]
  rfl

/-- Settles O7: `HDR.BYTE` and the decoder of `FIDX` agree row by row, and past the last row nothing is left but the
refusal. -/
theorem hdrByteRunsSelectedField : Obligations.HdrByteRunsSelectedField :=
  fun _ hp => ⟨fun _ hi => execHdrByte_of_decodeFidx hp hi, execHdrByte_of_reserved hp⟩

/-- The emitter of index `f` is the serializer's step with field `f`, a palette field at 1 bpp (R101, R157, R158). -/
theorem exec_of_decodeFidx {f : BitVec 5} {i : Instr} {s : State} (hi : decodeFidx f = .ok i)
    (hb : f.toNat < 15 ∨ s.bpp.toNat = 1) : exec i s = emitField f.toNat (registerValue s f.toNat) s := by
  have hpal : 15 ≤ f.toNat → s.bpp = 1#16 := fun hk => BitVec.eq_of_toNat_eq (hb.resolve_left (Nat.not_lt.mpr hk))
  unfold decodeFidx at hi
  generalize f.toNat = k at *
  split at hi <;> cases hi
  case h_16.refl | h_17.refl => exact emitPalette_of_one (hpal (by decide))
  all_goals rfl

theorem emitField_of_not_selected {k v : Nat} {s : State} (h : ¬ (s.phase = .hdr ∧ s.fidx.toNat = k)) :
    emitField k v s = .refused .notSelected := if_neg h

theorem emitField_of_reservedBidx {k v : Nat} {s : State} (hp : s.phase = .hdr) (hk : s.fidx.toNat = k)
    (hb : fieldSize k ≤ s.bidx.toNat) : emitField k v s = .refused .reservedBidx :=
  (if_pos ⟨hp, hk⟩).trans (if_neg (Nat.not_lt.mpr hb))

theorem emitPalette_of_absent {k v : Nat} {s : State} (hb : s.bpp.toNat ≠ 1) :
    emitPalette k v s = .refused .paletteAbsent := if_neg fun h => hb (congrArg BitVec.toNat h)

theorem exec_of_not_selected {f : BitVec 5} {i : Instr} {s : State} (hi : decodeFidx f = .ok i)
    (hb : f.toNat < 15 ∨ s.bpp.toNat = 1) (h : ¬ (s.phase = .hdr ∧ s.fidx = f)) : exec i s = .refused .notSelected :=
  (exec_of_decodeFidx hi hb).trans
    (emitField_of_not_selected fun ⟨hp, hk⟩ => h ⟨hp, BitVec.eq_of_toNat_eq hk⟩)

theorem exec_of_reservedBidx {i : Instr} {s : State} (hi : decodeFidx s.fidx = .ok i)
    (hb : s.fidx.toNat < 15 ∨ s.bpp.toNat = 1) (hp : s.phase = .hdr) (hlane : fieldSize s.fidx.toNat ≤ s.bidx.toNat) :
    exec i s = .refused .reservedBidx :=
  (exec_of_decodeFidx hi hb).trans (emitField_of_reservedBidx hp rfl hlane)

theorem execHdrByte_of_paletteAbsent {s : State} (hp : s.phase = .hdr) (hf : s.fidx.toNat = 15 ∨ s.fidx.toNat = 16)
    (hb : s.bpp.toNat ≠ 1) : execHdrByte s = .refused .paletteAbsent := by
  rw [execHdrByte, if_pos hp]
  rcases hf with hf | hf <;> rw [hf] <;> exact emitPalette_of_absent hb

/-- The three fields of two bytes have no lanes 2 and 3 (R101, R109). -/
theorem execHdrByte_of_reservedBidx {s : State} (hp : s.phase = .hdr)
    (hf : s.fidx.toNat = 0 ∨ s.fidx.toNat = 7 ∨ s.fidx.toNat = 8) (hlane : 2 ≤ s.bidx.toNat) :
    execHdrByte s = .refused .reservedBidx := by
  have hsize : fieldSize s.fidx.toNat = 2 := if_pos hf
  have hlast : s.fidx.toNat ≤ lastField s.bpp.toNat := by
    unfold lastField
    split <;> omega
  exact (execHdrByte_of_selected hp hlast).trans (emitField_of_reservedBidx hp rfl (hsize.trans_le hlane))

/-- Settles O33: each reserved value comes to the check of its own step, and what the state does not select to the check of
the selection before it; for the emitters both checks are those of the serializer's step. -/
theorem reservedStatesRefused : Obligations.ReservedStatesRefused := by
  intro s
  refine ⟨execHdrByte_of_reserved, execHdrByte_of_paletteAbsent, execHdrByte_of_reservedBidx, fun hp hnb hcol => ?_,
    fun hp hch => ?_, fun hp hpcnt => ?_, fun hp => if_neg hp, fun h => if_neg h, fun h => ?_, fun hp => if_neg hp,
    fun hp => if_neg hp, fun f i hi hb => ⟨exec_of_not_selected hi hb, fun hp hf hlane => ?_⟩⟩
  · exact (if_pos ⟨hp, flush_iff.mpr (.inr hcol)⟩).trans (if_neg (by omega))
  · exact (if_pos hp).trans (if_neg (by omega))
  · exact (if_pos hp).trans (if_neg (by omega))
  · exact if_neg fun ⟨hp, hflush⟩ => h ⟨hp, flush_iff.mp hflush⟩
  · subst hf
    exact exec_of_reservedBidx hi hb hp hlane

/-- Settles O8: the table is read off row by row, and every header ends at its last field. -/
theorem headerFieldsTile : Obligations.HeaderFieldsTile :=
  ⟨by decide, by decide, by decide, fun _ => rfl, fieldOffset_lastField⟩

/-- Settles O11: with the host waiting, standing by or done, an idle block fetches nothing. -/
theorem idleBlockStaysAsItIs : Obligations.IdleBlockStaysAsItIs := by
  intro s hp
  refine ⟨fun hs => ?_, fun rest hs => ?_⟩
  · exact step_of_fetch_settle ((fetch_of_host_nil hs).trans (fetchSequencer_of_idle hp))
  · rcases hs with hs | hs
    · exact step_of_fetch_settle (fetch_of_host_wait_idle hs hp)
    · exact step_of_fetch_settle ((fetch_of_host_tick hs).trans (fetchSequencer_of_idle hp))

end Sys2Proof.Machine

/-!
PROOFS. The two host commands (R120 to R123, R224, R225): when each is refused, and the two ways each completes.
-/

namespace Sys2Proof.Machine

/-- The contract domain as R7 writes it out. -/
theorem inDomain_iff_bounds {w h b : Nat} :
    inDomain w h b = true ↔ 1 ≤ w ∧ w ≤ 2 ^ 31 - 1 ∧ 1 ≤ h ∧ h ≤ 2 ^ 31 - 1 ∧
      (b = 1 ∨ b = 24 → headerSize b + h * paddedRowBytes w b ≤ 2 ^ 32 - 1) := by
  rw [inDomain_iff, depthSupported_iff]
  rfl

theorem execCfg_refused {w h : Word} {b : BitVec 16} {s : State}
    (hn : ¬ (s.phase = .idle ∧ inDomain w.toNat h.toNat b.toNat = true)) : ∃ why, execCfg w h b s = .refused why := by
  by_cases hp : s.phase = .idle
  · exact ⟨.outsideDomain, (if_pos hp).trans (if_neg fun hd => hn ⟨hp, hd⟩)⟩
  · exact ⟨.commandWhileBusy, execCfg_of_busy hp w h b⟩

/-- Beside the configuration, `CFGV` and `ERR`, a `CFG` that completes changes nothing (R121, R224). -/
theorem execCfg_frame {w h : Word} {b : BitVec 16} {s t : State} (ht : execCfg w h b s = .next t) :
    t.phase = .idle ∧ t.done = s.done ∧ t.pixlen = s.pixlen ∧ keepsWorking s t ∧ emitsNothing s t := by
  obtain ⟨hp, -, ⟨-, rfl⟩ | ⟨-, rfl⟩⟩ := execCfg_next.mp ht <;>
    exact ⟨hp, rfl, rfl, ⟨⟨rfl, rfl⟩, rfl, rfl, rfl, rfl, rfl, rfl⟩, rfl, rfl, fun _ _ => rfl, rfl, rfl, rfl⟩

/-- Settles O16: in the domain the depth decides between the configuration, which is a valid one, and the error. -/
theorem cfgConfiguresOrRaises : Obligations.CfgConfiguresOrRaises := by
  intro s width height bpp
  split
  case isTrue hn =>
    rw [← inDomain_iff_bounds] at hn
    exact execCfg_refused hn
  case isFalse hn =>
    rw [← inDomain_iff_bounds, not_not] at hn
    obtain ⟨hp, hd⟩ := hn
    cases hb : depthSupported bpp.toNat with
    | true =>
      have ht : execCfg width height bpp s = .next (configure width height bpp s) :=
        execCfg_next.mpr ⟨hp, hd, .inl ⟨hb, rfl⟩⟩
      have hcfg := configure_configOk s hd hb
      have ⟨_, _, _, _, _, hrbu, hpad, _⟩ := hcfg
      rw [hrbu] at hpad
      refine ⟨_, ht, ?_, execCfg_frame ht⟩
      rw [if_pos (depthSupported_iff.mp hb)]
      exact ⟨rfl, rfl, rfl, hrbu, hpad, hcfg.prb_eq_stride, rfl, rfl⟩
    | false =>
      have ht : execCfg width height bpp s = .next (raise .unsupportedFormat s) :=
        execCfg_next.mpr ⟨hp, hd, .inr ⟨hb, rfl⟩⟩
      refine ⟨_, ht, ?_, execCfg_frame ht⟩
      rw [if_neg fun h => Bool.false_ne_true (hb.symm.trans (depthSupported_iff.mpr h))]
      exact ⟨⟨rfl, rfl, rfl, rfl, rfl, rfl⟩, rfl, rfl⟩

/-- Duty H6 as R122 asks for it: `PIX` holds the samples and `OUT` can take the file. -/
def State.memoriesSuffice (s : State) (pixlen : BitVec 64) : Prop := pixlen.toNat ≤ s.pixSize ∧ s.fileBytes ≤ s.outSize

theorem execEnc_of_memoryTooSmall {n : BitVec 64} {s : State} (hp : s.phase = .idle) (hc : s.cfgv = true)
    (hm : ¬ s.memoriesSuffice n) : execEnc n s = .refused .memoryTooSmall :=
  (if_pos hp).trans ((if_pos hc).trans (if_neg hm))

theorem execEnc_refused {n : BitVec 64} {s : State}
    (hn : s.phase ≠ .idle ∨ s.cfgv = false ∨ ¬ s.memoriesSuffice n) : ∃ why, execEnc n s = .refused why := by
  by_cases hp : s.phase = .idle
  · cases hc : s.cfgv with
    | false => exact ⟨.notConfigured, (if_pos hp).trans (if_neg (by simp [hc]))⟩
    | true =>
      have hm : ¬ s.memoriesSuffice n := (hn.resolve_left (not_not.mpr hp)).resolve_left (by simp [hc])
      exact ⟨.memoryTooSmall, execEnc_of_memoryTooSmall hp hc hm⟩
  · exact ⟨.commandWhileBusy, execEnc_of_busy hp n⟩

/-- Beside `DONE`, `OCUR`, `ERR` and what the start of the encode sets, an `ENC` that completes changes nothing (R122,
R225). -/
theorem execEnc_frame {n : BitVec 64} {s t : State} (ht : execEnc n s = .next t) :
    keepsConfig s t ∧ t.cfgv = true ∧ keepsMemoryBut (fun _ => False) s t := by
  obtain ⟨-, hc, -, -, ⟨-, rfl⟩ | ⟨-, rfl⟩⟩ := execEnc_next.mp ht <;>
    exact ⟨⟨rfl, rfl, rfl, rfl, rfl, rfl⟩, hc, rfl, fun _ _ => rfl, rfl, rfl, rfl⟩

/-- Settles O17: with the duties kept, the length check decides between the start of the encode and the error. -/
theorem encStartsOrRaises : Obligations.EncStartsOrRaises := by
  intro s pixlen _ needed large
  refine ⟨execEnc_refused, fun hp hc ⟨hpix, hout⟩ => ?_⟩
  by_cases hlen : pixlen.toNat < s.requiredSamples
  · have ht : execEnc pixlen s = .next (raise .outOfBounds { s with done := false, ocur := 0 }) :=
      execEnc_next.mpr ⟨hp, hc, hpix, hout, .inl ⟨hlen, rfl⟩⟩
    refine ⟨_, ht, rfl, rfl, ?_, execEnc_frame ht⟩
    exact (if_pos hlen).mpr ⟨rfl, hp, rfl, ⟨rfl, rfl⟩, rfl, rfl, rfl, rfl, rfl, rfl⟩
  · have ht : execEnc pixlen s = .next (startEncode pixlen { s with done := false, ocur := 0 }) :=
      execEnc_next.mpr ⟨hp, hc, hpix, hout, .inr ⟨Nat.not_lt.mp hlen, rfl⟩⟩
    refine ⟨_, ht, rfl, rfl, ?_, execEnc_frame ht⟩
    exact (if_neg hlen).mpr ⟨rfl, rfl, rfl, rfl, rfl, rfl, rfl, rfl, rfl, rfl, rfl⟩

/-- Settles O18: the sizes are asked for before the length, and the step runs the command as it is presented. -/
theorem memorySizesAskedOfEveryEnc : Obligations.MemorySizesAskedOfEveryEnc := by
  intro s pixlen hp hc hsmall
  have hm : ¬ s.memoriesSuffice pixlen := fun ⟨hpix, hout⟩ =>
    hsmall.elim (fun h => Nat.not_lt.mpr hpix h) (fun h => Nat.not_lt.mpr hout h)
  refine ⟨execEnc_of_memoryTooSmall hp hc hm, fun w rest hs hw => ?_⟩
  exact (stepRunsPresentedCommand s w rest _ hs hw).trans
    (execEnc_of_memoryTooSmall (s := { s with host := rest }) hp hc hm)

/-- Settles O19: a busy block refuses in the instruction and in the fetch; a command that completes writes registers
only. -/
theorem commandsNeedAnIdleBlock : Obligations.CommandsNeedAnIdleBlock := by
  refine fun s => ⟨fun hp w h b n => ⟨execCfg_of_busy hp w h b, execEnc_of_busy hp n⟩, fun hp w rest hs => ?_,
    fun w h b t ht => ?_, fun n t ht => ?_⟩
  · exact step_of_fetch_refuse
      ((fetch_of_host_command hs).trans (fetchCommand_of_busy (s := { s with host := rest }) hp w))
  · obtain ⟨-, -, ⟨-, rfl⟩ | ⟨-, rfl⟩⟩ := execCfg_next.mp ht <;> exact ⟨rfl, rfl⟩
  · obtain ⟨-, -, -, -, ⟨-, rfl⟩ | ⟨-, rfl⟩⟩ := execEnc_next.mp ht <;> exact ⟨rfl, rfl⟩

/-- Settles O36: a header is its fields, the pixel data its rows. -/
theorem imageHasFileSizeBytes : Obligations.ImageHasFileSizeBytes := by
  intro w h b pix hb
  have hpixels : (pixelData w h b pix).length = h * paddedRowBytes w b := length_flatMap_range (rowBytes_length hb pix) h
  refine ⟨headerBytes_length w h b, hpixels, ?_⟩
  rw [encodeImage, List.length_append, headerBytes_length, hpixels, fileSize]

end Sys2Proof.Machine

/-!
PROOFS. Every sequencer step extends the contract's image (R127). Where the image holds each byte of the header, and which
bit of a packed byte is which column's; then, for each micro-operation, that the byte it emits is the image's byte at
`OCUR`.
-/

namespace Sys2Proof.Machine

/-! ### The image's bytes -/

theorem littleEndian_getElem? {n i : Nat} (v : Nat) (hi : i < n) : (littleEndian n v)[i]? = some (lane v i) := by
  simp [littleEndian, hi]

/-- Field `k` begins at its offset (R101). -/
theorem getElem?_fields (value : Nat → Nat) {n k i : Nat} (hk : k < n) (hi : i < fieldSize k) :
    ((List.range n).flatMap fun k => littleEndian (fieldSize k) (value k))[fieldOffset k + i]? =
      some (lane (value k) i) := by
  induction n with
  | zero => omega
  | succ n ih =>
    rw [List.range_succ, List.flatMap_append, List.flatMap_singleton]
    have hlen := length_fields value n
    rcases Nat.lt_succ_iff_lt_or_eq.mp hk with hlt | rfl
    · have hend : fieldOffset k + fieldSize k ≤ fieldOffset n := fieldOffset_mono hlt
      rw [List.getElem?_append_left (by omega), ih hlt]
    · rw [List.getElem?_append_right (by omega), hlen, Nat.add_sub_cancel_left, littleEndian_getElem? _ hi]

theorem encodeImage_getElem?_field {w h b k i : Nat} (pix : Nat → Byte) (hk : k ≤ lastField b) (hi : i < fieldSize k) :
    (encodeImage w h b pix)[fieldOffset k + i]? = some (lane (headerValue w h b k) i) := by
  have hlen := headerBytes_length w h b
  have hend := fieldEnd_le_headerSize hk
  rw [encodeImage, List.getElem?_append_left (by omega)]
  exact getElem?_fields _ (Nat.lt_succ_of_le hk) hi

/-- With a valid configuration the registers give the contract's field values. -/
theorem State.configOk.registerValue_eq {s : State} (h : s.configOk) {k : Nat} (hk : k ≤ 16) :
    registerValue s k = headerValue s.width.toNat s.height.toNat s.bpp.toNat k := by
  have hfile := h.fileBytes_eq
  have himage : s.imageBytes = imageSize s.width.toNat s.height.toNat s.bpp.toNat := by
    rw [State.imageBytes, h.prb_eq_stride, imageSize]
  have hbpp : s.bpp = 1#16 ↔ s.bpp.toNat = 1 := BitVec.toNat_inj.symm
  interval_cases k <;> simp [registerValue, headerValue, hfile, himage, hbpp, wordSpan]

/-- Eight bits, the first the most significant, summed as R170 sums them: bit `7 - k` of the sum is bit `k`. -/
theorem sum_bits (f : Nat → Bool) :
    ((List.range 8).map fun k => (f k).toNat * 2 ^ (7 - k)).sum = Nat.ofBits fun i : Fin 8 => f (7 - i.val) := by
  simp [List.range_succ, Nat.ofBits, Fin.foldr_succ]
  omega

/-- Column `c` of input row `q` exists and is white: what a bit of a packed row says (R170, R171). -/
def whiteColumn (w : Nat) (pix : Nat → Byte) (q c : Nat) : Bool := decide (c < w ∧ pix (q * w + c) = 0xFF#8)

theorem row1Byte_eq_ofBits (w : Nat) (pix : Nat → Byte) (q j : Nat) :
    row1Byte w pix q j = BitVec.ofNat 8 (Nat.ofBits fun i : Fin 8 => whiteColumn w pix q (8 * j + (7 - i.val))) := by
  rw [row1Byte, ← sum_bits fun k => whiteColumn w pix q (8 * j + k)]
  congr 3
  funext k
  by_cases hc : 8 * j + k < w <;> by_cases hv : pix (q * w + (8 * j + k)) = 0xFF#8 <;>
    simp [whiteColumn, bit1, hc, hv, Nat.add_assoc]

/-- Bit `7 - k` of packed byte `j` is that of column `8j + k` (R170). -/
theorem row1Byte_getLsbD {k : Nat} (w : Nat) (pix : Nat → Byte) (q j : Nat) (hk : k < 8) :
    (row1Byte w pix q j).getLsbD (7 - k) = whiteColumn w pix q (8 * j + k) := by
  rw [row1Byte_eq_ofBits, BitVec.getLsbD_ofNat, Nat.testBit_ofBits_lt _ _ (by omega), Nat.sub_sub_self (by omega),
    decide_eq_true (by omega), Bool.true_and]

theorem row1Bytes_getElem? {w j : Nat} (pix : Nat → Byte) (q : Nat) (hj : j < rowBytesUnpadded w 1) :
    (row1Bytes w pix q)[j]? = some (row1Byte w pix q j) := by
  simp [row1Bytes, hj]

/-! ### The accumulator -/

theorem sample_shiftIn (v : Byte) (s : State) (i : Nat) : (shiftIn v s).sample i = s.sample i := rfl

theorem bit1_getElem_zero (v : Byte) : (bit1 v)[0] = decide (v = 0xFF#8) := by
  unfold bit1
  split <;> simp_all

theorem shiftIn_pixelNumber {v : Byte} {s : State} (hcol : s.col.toNat < s.width.toNat) :
    pixelNumber (shiftIn v s) = pixelNumber s + 1 :=
  congrArg (srcRow s.row.toNat * s.width.toNat + ·) (ocur_ofNat_toNat (Nat.lt_of_le_of_lt hcol s.width.isLt))

/-- `PK1.SHIFT` puts the bit of the sample it reads below the bits `ACC` holds (R37, R173). -/
theorem shiftIn_accOk {s : State} (hnb : s.nbits.toNat < 8) (hcol : s.col.toNat < s.width.toNat) (hp : s.phase = .pix1)
    (ha : s.accOk) : (shiftIn (s.sample (pixelNumber s)) s).accOk := by
  intro _ k hk
  have hnbits : (shiftIn (s.sample (pixelNumber s)) s).nbits.toNat = s.nbits.toNat + 1 := Nat.mod_eq_of_lt (by omega)
  rw [hnbits] at hk
  rw [shiftIn_pixelNumber hcol, shiftIn_acc, BitVec.getLsbD_or, BitVec.getLsbD_shiftLeft, sample_shiftIn]
  cases k with
  | zero => simp [bit1_getElem_zero]
  | succ k =>
    rw [show pixelNumber s + 1 - 1 - (k + 1) = pixelNumber s - 1 - k by omega, ← ha hp k (by omega)]
    simp
    omega

/-- Bit `7 - k` of the byte a flush emits: the bits of `ACC` left-justified, then zeros (R174). -/
theorem flushByte_getLsbD {s : State} {k : Nat} (hk : k < 8) (hnb : s.nbits.toNat ≤ 8) :
    (flushByte s).getLsbD (7 - k) = (decide (k < s.nbits.toNat) && s.acc.getLsbD (s.nbits.toNat - 1 - k)) := by
  rw [flushByte, BitVec.getLsbD_shiftLeft, decide_eq_true (by omega), Bool.true_and]
  by_cases h : k < s.nbits.toNat
  · rw [show 7 - k - (8 - s.nbits.toNat) = s.nbits.toNat - 1 - k by omega, decide_eq_false (by omega), decide_eq_true h]
    rfl
  · rw [decide_eq_true (by omega : 7 - k < 8 - s.nbits.toNat), decide_eq_false h]
    rfl

/-- In `PIX1` the bits in `ACC` are the last columns before `COL` that are not yet emitted, of which a flush finds at
least one (R37, R38, R172). -/
theorem State.Inv.col_eq_of_flush {s : State} (hs : s.Inv) (hp : s.phase = .pix1) (hf : s.flush = true) :
    s.col.toNat = 8 * ((s.col.toNat - s.nbits.toNat) / 8) + s.nbits.toNat ∧ 0 < s.nbits.toNat := by
  obtain ⟨-, -, hnb, -, hend, hmid, hedge, -⟩ := (phaseOk_pix1 hp).mp hs.phaseOk
  have hpos : 0 < s.nbits.toNat := by
    rcases flush_iff.mp hf with h | h
    · omega
    · exact hend h
  omega

/-- The byte a flush emits is the packed byte of the columns since the last flush (R170, R174, R175). -/
theorem State.Inv.flushByte_eq {s : State} (hs : s.Inv) (hp : s.phase = .pix1) (hf : s.flush = true) (ha : s.accOk) :
    flushByte s = row1Byte s.width.toNat s.sample s.row.toNat ((s.col.toNat - s.nbits.toNat) / 8) := by
  obtain ⟨hbusy, -, hnb, -⟩ := (phaseOk_pix1 hp).mp hs.phaseOk
  obtain ⟨hcol, -⟩ := hs.col_eq_of_flush hp hf
  have hle := hbusy.col_le
  generalize (s.col.toNat - s.nbits.toNat) / 8 = j at hcol ⊢
  refine BitVec.eq_of_getLsbD_eq fun i hi => ?_
  obtain ⟨k, hk, rfl⟩ : ∃ k, k < 8 ∧ i = 7 - k := ⟨7 - i, by omega, by omega⟩
  rw [flushByte_getLsbD hk hnb, row1Byte_getLsbD _ _ _ _ hk, whiteColumn]
  by_cases h : k < s.nbits.toNat
  · have hindex : pixelNumber s - 1 - (s.nbits.toNat - 1 - k) = s.row.toNat * s.width.toNat + (8 * j + k) := by
      rw [pixelNumber, srcRow]
      omega
    rw [ha hp _ (by omega), hindex]
    simp [h]
    omega
  · have hend : s.width.toNat ≤ 8 * j + k := by
      rcases flush_iff.mp hf with h8 | hw
      · omega
      · rw [← hw]
        omega
    simp [h, Nat.not_lt.mpr hend]

/-! ### Each micro-operation -/

/-- What one sequencer step does to the encode: `PK1.SHIFT` reads its sample, or the image's byte at `OCUR` is emitted
with no bit left in `ACC`; at 1 bpp no pixel is read then. -/
def advances (s t : State) : Prop :=
  (s.phase = .pix1 ∧ s.nbits.toNat < 8 ∧ s.col.toNat < s.width.toNat ∧ t = shiftIn (s.sample (pixelNumber s)) s) ∨
    ∃ b, s.canEmit ∧ s.image[s.ocur.toNat]? = some b ∧ t = (emitted b s).withPosition t ∧ t.nbits = 0 ∧
      (s.bpp.toNat = 1 → pixelNumber t = pixelNumber s)

theorem advanceHeader_keeps (n : Nat) (s : State) :
    (advanceHeader n s).nbits = s.nbits ∧ pixelNumber (advanceHeader n s) = pixelNumber s := by
  unfold advanceHeader
  split
  · exact ⟨rfl, rfl⟩
  · split <;> exact ⟨rfl, rfl⟩

/-- `NextRow` at the end of a row goes on with the pixel that comes next (R61, R200). -/
theorem rowAfter_keeps {s : State} (hcol : s.col = s.width) (hrow : s.row.toNat + 1 < wordSpan) :
    (rowAfter s).nbits = s.nbits ∧ pixelNumber (rowAfter s) = pixelNumber s := by
  have hnext : (BitVec.ofNat 32 (s.row.toNat + 1)).toNat * s.width.toNat + 0 =
      s.row.toNat * s.width.toNat + s.col.toNat := by
    rw [ocur_ofNat_toNat hrow, hcol, Nat.succ_mul, Nat.add_zero]
  unfold rowAfter
  split <;> exact ⟨rfl, hnext⟩

theorem endRowData_keeps {s t : State} (hcol : s.col = s.width) (h : endRowData s = .next t) :
    t.nbits = s.nbits ∧ pixelNumber t = pixelNumber s := by
  rcases endRowData_next.mp h with ⟨-, rfl⟩ | ⟨-, hrow, rfl⟩
  · exact ⟨rfl, rfl⟩
  · exact rowAfter_keeps hcol hrow

theorem advancePixel_nbits {s t : State} (h : advancePixel s = .next t) : t.nbits = s.nbits := by
  rcases advancePixel_next.mp h with ⟨-, rfl⟩ | ⟨-, hfits, ⟨hlast, hend⟩ | ⟨-, rfl⟩⟩
  · rfl
  · exact (endRowData_keeps (BitVec.eq_of_toNat_eq ((ocur_ofNat_toNat hfits).trans hlast)) hend).1
  · rfl

/-- `OCUR` in row `ROW` is the row's place in the image (R63). -/
theorem State.configOk.rowStart_eq {s : State} (h : s.configOk) :
    s.rowStart = headerSize s.bpp.toNat + s.row.toNat * paddedRowBytes s.width.toNat s.bpp.toNat := by
  rw [State.rowStart, h.prb_eq_stride]

theorem State.configOk.rbu_eq {s : State} (h : s.configOk) :
    s.rbu.toNat = rowBytesUnpadded s.width.toNat s.bpp.toNat := by
  obtain ⟨-, -, -, -, -, hrbu, -⟩ := h
  exact hrbu

theorem State.configOk.pad_eq {s : State} (h : s.configOk) :
    s.pad.toNat = padding (rowBytesUnpadded s.width.toNat s.bpp.toNat) := by
  have hrbu := h.rbu_eq
  obtain ⟨-, -, -, -, -, -, hpad, -⟩ := h
  rw [hpad, hrbu]

/-- A data byte of row `ROW`, by its place in the row. -/
theorem State.encoding.image_getElem?_data {s : State} (h : s.encoding) {i : Nat} (hi : i < s.rbu.toNat) :
    s.image[s.rowStart + i]? = (rowData s.width.toNat s.bpp.toNat s.sample s.row.toNat)[i]? := by
  have ⟨hcfg, _, _, _, _, hrow, _⟩ := h
  rw [hcfg.rbu_eq] at hi
  rw [State.image, hcfg.rowStart_eq, encodeImage_getElem?_data hcfg.depth s.sample hrow hi]

theorem State.encoding.image_getElem?_padding {s : State} (h : s.encoding) {n : Nat} (hn : n < s.pad.toNat) :
    s.image[s.rowStart + s.rbu.toNat + n]? = some 0x00#8 := by
  have ⟨hcfg, _, _, _, _, hrow, _⟩ := h
  rw [hcfg.pad_eq] at hn
  rw [State.image, hcfg.rowStart_eq, hcfg.rbu_eq, encodeImage_getElem?_padding hcfg.depth s.sample hrow hn]

theorem execHdrByte_advances {s t : State} (hs : s.Inv) (h : execHdrByte s = .next t) : advances s t := by
  obtain ⟨hk, -, hf⟩ := execHdrByte_next.mp h
  obtain ⟨hp, -, hlane, hbacked, hfits, rfl⟩ := emitField_next.mp hf
  obtain ⟨hbusy, hfidx, -, hocur, -, -, -, -, hnb, -⟩ := (phaseOk_hdr hp).mp hs.phaseOk
  obtain ⟨hnb', hnumber⟩ := advanceHeader_keeps (fieldSize s.fidx.toNat)
    (emitted (lane (registerValue s s.fidx.toNat) s.bidx.toNat) s)
  refine .inr ⟨_, ⟨hbacked, hfits⟩, ?_, advanceHeader_eq_withPosition _ _, hnb'.trans hnb, fun _ => hnumber⟩
  rw [State.image, hocur, encodeImage_getElem?_field _ hfidx hlane, (hs.encoding hbusy).configOk.registerValue_eq hk]

theorem execPk1Shift_advances {s t : State} (h : execPk1Shift s = .next t) : advances s t := by
  obtain ⟨hp, hnb, hcol, -, -, rfl⟩ := execPk1Shift_next.mp h
  exact .inl ⟨hp, hnb, hcol, rfl⟩

/-- The byte of a flush is the image's at `OCUR` (R160, R175). -/
theorem State.Inv.image_flushByte {s : State} (hs : s.Inv) (ha : s.accOk) (hp : s.phase = .pix1) (hf : s.flush = true) :
    s.image[s.ocur.toNat]? = some (flushByte s) := by
  obtain ⟨hbusy, hb, -, -, -, -, -, hocur, -⟩ := (phaseOk_pix1 hp).mp hs.phaseOk
  obtain ⟨hcol, hpos⟩ := hs.col_eq_of_flush hp hf
  have henc := hs.encoding hbusy
  have hrbu := henc.configOk.rbu_of_one hb
  have hle := hbusy.col_le
  have hj : (s.col.toNat - s.nbits.toNat) / 8 < s.rbu.toNat := by omega
  rw [hocur, henc.image_getElem?_data hj, hs.flushByte_eq hp hf ha, rowData, if_pos hb, row1Bytes_getElem?]
  rwa [henc.configOk.rbu_eq, hb] at hj

theorem execPk1Flush_advances {s t : State} (hs : s.Inv) (ha : s.accOk) (h : execPk1Flush s = .next t) :
    advances s t := by
  obtain ⟨hp, hflush, -, hbacked, hfits, hcases⟩ := execPk1Flush_next.mp h
  have hbyte := hs.image_flushByte ha hp hflush
  rcases hcases with ⟨hcol, hend⟩ | ⟨-, rfl⟩
  · obtain ⟨hnb, hnumber⟩ := endRowData_keeps (s := flushed s) hcol hend
    have hpos := endRowData_eq_withPosition hend
    exact .inr ⟨_, ⟨hbacked, hfits⟩, hbyte, hpos, hnb, fun _ => hnumber⟩
  · exact .inr ⟨_, ⟨hbacked, hfits⟩, hbyte, rfl, rfl, fun _ => rfl⟩

theorem execPk24Byte_advances {s t : State} (hs : s.Inv) (h : execPk24Byte s = .next t) : advances s t := by
  obtain ⟨hp, hch, -, -, hbacked, hfits, hadv⟩ := execPk24Byte_next.mp h
  obtain ⟨hbusy, hb, hcol, -, hocur, -, hnb, -⟩ := (phaseOk_pix24 hp).mp hs.phaseOk
  have henc := hs.encoding hbusy
  have hrbu := henc.configOk.rbu_of_twentyFour hb
  refine .inr ⟨_, ⟨hbacked, hfits⟩, ?_, advancePixel_eq_withPosition hadv, (advancePixel_nbits hadv).trans hnb,
    fun hone => by omega⟩
  rw [hocur, Nat.add_assoc, henc.image_getElem?_data (by omega), rowData, if_neg (by omega),
    row24Bytes_getElem? _ _ hcol (by omega)]
  rfl

theorem execPadByte_advances {s t : State} (hs : s.Inv) (h : execPadByte s = .next t) : advances s t := by
  obtain ⟨hp, -, hbacked, hfits, hcases⟩ := execPadByte_next.mp h
  obtain ⟨hbusy, -, hlt, hcol, hnb, -, hocur, -⟩ := (phaseOk_padw hp).mp hs.phaseOk
  have hbyte : s.image[s.ocur.toNat]? = some 0x00#8 := by
    rw [hocur]
    exact (hs.encoding hbusy).image_getElem?_padding hlt
  rcases hcases with ⟨-, rfl⟩ | ⟨-, hnext⟩
  · exact .inr ⟨_, ⟨hbacked, hfits⟩, hbyte, rfl, hnb, fun _ => rfl⟩
  · obtain ⟨hrow, rfl⟩ := nextRow_next.mp hnext
    obtain ⟨hnb', hnumber⟩ := rowAfter_keeps (s := { emitted 0x00#8 s with pcnt := 0 }) hcol hrow
    exact .inr ⟨_, ⟨hbacked, hfits⟩, hbyte, rowAfter_eq_withPosition _, hnb'.trans hnb, fun _ => hnumber⟩

/-! ### One step -/

theorem advances.frame {s t : State} (h : advances s t) : sequencerFrame s t := by
  rcases h with ⟨-, -, -, rfl⟩ | ⟨b, hb, -, ht, -⟩
  · exact .inl rfl
  · exact .inr ⟨b, hb, ht⟩

/-- The image depends on the configuration and on `PIX`, which a sequencer step leaves alone. -/
theorem sequencerFrame.image {s t : State} (h : sequencerFrame s t) : t.image = s.image := by
  rcases h with h | ⟨b, -, h⟩ <;> rw [h] <;> rfl

theorem advances.outputOk {s t : State} (h : advances s t) (ho : s.outputOk) : t.outputOk := by
  have himage := h.frame.image
  rcases h with ⟨-, -, -, rfl⟩ | ⟨b, ⟨-, hfits⟩, hbyte, ht, -⟩
  · exact ho
  · intro a ha
    have hocur : t.ocur.toNat = s.ocur.toNat + 1 := by
      rw [ht]
      exact emitted_ocur_toNat (b := b) hfits
    have hout : t.outByte a = if a = s.ocur.toNat then b else s.outByte a := by
      rw [ht]
      exact outByte_emitted b s a
    rw [himage, hout]
    split
    case isTrue heq => rwa [heq]
    case isFalse hne => exact ho a (by omega)

theorem advances.accOk {s t : State} (h : advances s t) (ha : s.accOk) : t.accOk := by
  rcases h with ⟨hp, hnb, hcol, rfl⟩ | ⟨b, -, -, -, hnb, -⟩
  · exact shiftIn_accOk hnb hcol hp ha
  · intro _ k hk
    rw [hnb] at hk
    exact absurd hk (Nat.not_lt_zero k)

/-- A sequencer step of a busy block: one of the five micro-operations, with the host's list as the step leaves it
(R100). -/
theorem step_sequencer {s t : State} (hp : s.phase ≠ .idle) (hh : s.hostStandsBy) (h : step s = .next t) :
    ∃ l i, decodeDisp s.disp = .ok i ∧ exec i { s with host := l } = .next t := by
  obtain ⟨i, hi⟩ := exists_decodeDisp_of_busy hp
  obtain ⟨hstay, htick⟩ := stepRunsSelectedMicroOperation s i hi
  rcases hh with hh | hh | ⟨rest, hh⟩
  · exact ⟨s.host, i, hi, (hstay (.inl hh)).symm.trans h⟩
  · exact ⟨s.host, i, hi, (hstay (.inr hh)).symm.trans h⟩
  · exact ⟨rest, i, hi, (htick rest hh).symm.trans h⟩

/-- The micro-operations `DISP` selects, and where it selects each (R100). -/
theorem microOperation_cases {s : State} {i : Instr} (hi : decodeDisp s.disp = .ok i) :
    (s.phase = .hdr ∧ i = .hdrByte) ∨ (s.phase = .pix1 ∧ s.flush = false ∧ i = .pk1Shift) ∨
      (s.phase = .pix1 ∧ s.flush = true ∧ i = .pk1Flush) ∨ (s.phase = .pix24 ∧ i = .pk24Byte) ∨
      (s.phase = .padw ∧ i = .padByte) := by
  rw [decodeDisp_disp] at hi
  cases hp : s.phase <;> rw [hp] at hi
  case idle => cases hi
  case pix1 => cases hf : s.flush <;> rw [hf] at hi <;> cases hi <;> simp
  all_goals cases hi; simp

theorem exec_advances {s t : State} {i : Instr} (hs : s.Inv) (ha : s.accOk) (hi : decodeDisp s.disp = .ok i)
    (h : exec i s = .next t) : advances s t := by
  obtain ⟨-, rfl⟩ | ⟨-, -, rfl⟩ | ⟨-, -, rfl⟩ | ⟨-, rfl⟩ | ⟨-, rfl⟩ := microOperation_cases hi
  · exact execHdrByte_advances hs h
  · exact execPk1Shift_advances h
  · exact execPk1Flush_advances hs ha h
  · exact execPk24Byte_advances hs h
  · exact execPadByte_advances hs h

/-- Settles O50: the byte a step emits is the image's at `OCUR`, and a shift puts its sample's bit below those `ACC`
holds. -/
theorem sequencerExtendsImage : Obligations.SequencerExtendsImage := by
  intro s t hs hp hh ho ha h
  obtain ⟨l, i, hi, he⟩ := step_sequencer hp hh h
  have hadv : advances { s with host := l } t := exec_advances (hs.with_host l) ha hi he
  exact ⟨hadv.outputOk ho, hadv.accOk ha, hadv.frame.image⟩

end Sys2Proof.Machine

/-!
PROOFS. The step that completes an encode (R129, R200): it ends the data or the padding of the last row.
-/

namespace Sys2Proof.Machine

theorem pixelPhase_ne_idle (b : BitVec 16) : pixelPhase b ≠ .idle := by
  unfold pixelPhase
  split <;> decide

/-- `NextRow` leaves the block idle after the last row only. -/
theorem row_of_rowAfter_idle {s : State} (h : (rowAfter s).phase = .idle) : s.row.toNat + 1 = s.height.toNat := by
  unfold rowAfter at h
  split at h
  · assumption
  · exact absurd h (pixelPhase_ne_idle _)

/-- The encode is complete after the step: it emits one byte, with which its row is done, and `NextRow` follows. -/
def completes (s t : State) : Prop :=
  ∃ b r, s.canEmit ∧ r = (emitted b s).withPosition r ∧ r.rowDone ∧ t = rowAfter r

/-- Without padding the row is done where its data is. -/
theorem State.rowDataDone.rowDone_of_idle {s t : State} (h : s.rowDataDone) (ht : endRowData s = .next t)
    (hi : t.phase = .idle) : s.rowDone ∧ t = rowAfter s := by
  obtain ⟨henc, -, hocur, hclear, hhdr⟩ := h
  have hprb := henc.configOk.prb_eq
  rcases endRowData_next.mp ht with ⟨-, rfl⟩ | ⟨hpad, -, rfl⟩
  · cases hi
  · exact ⟨⟨henc, by omega, hclear, hhdr⟩, rfl⟩

theorem advanceHeader_ne_idle {s : State} (hp : s.phase = .hdr) (n : Nat) : (advanceHeader n s).phase ≠ .idle := by
  unfold advanceHeader
  split
  · simp [hp]
  · split
    · exact pixelPhase_ne_idle _
    · simp [hp]

/-- The flush at the last column emits the last data byte of its row (R174). -/
theorem State.Inv.flushed_rowDataDone {s : State} (hs : s.Inv) (hp : s.phase = .pix1) (hcol : s.col = s.width)
    (hfits : s.ocur.toNat + 1 < wordSpan) : (flushed s).rowDataDone := by
  obtain ⟨hbusy, hb, hnb, -, -, -, -, hocur, hch, hpcnt, hhdr⟩ := (phaseOk_pix1 hp).mp hs.phaseOk
  have henc := hs.encoding hbusy
  have hw : s.col.toNat = s.width.toNat := congrArg BitVec.toNat hcol
  have hrbu := henc.configOk.rbu_of_one hb
  obtain ⟨hlast, hpos⟩ := hs.col_eq_of_flush hp (flush_iff.mpr (.inr hcol))
  have hend : (flushed s).ocur.toNat = s.ocur.toNat + 1 := ocur_ofNat_toNat hfits
  have hdata : (flushed s).ocur.toNat = s.rowStart + s.rbu.toNat := by omega
  exact ⟨henc, hcol, hdata, ⟨hch, rfl, rfl, hpcnt⟩, hhdr⟩

theorem execPk1Flush_completes {s t : State} (hs : s.Inv) (h : execPk1Flush s = .next t) (hi : t.phase = .idle) :
    completes s t := by
  obtain ⟨hp, -, -, hbacked, hfits, ⟨hcol, hend⟩ | ⟨-, rfl⟩⟩ := execPk1Flush_next.mp h
  · exact ⟨_, flushed s, ⟨hbacked, hfits⟩, rfl, (hs.flushed_rowDataDone hp hcol hfits).rowDone_of_idle hend hi⟩
  · cases hp.symm.trans hi

/-- The state in which the 24-bit packer ends a row's data (R181). -/
abbrev pixelEnded (s : State) : State := { s with ch := 0, col := BitVec.ofNat 32 (s.col.toNat + 1) }

theorem State.channelEmitted.pixelEnded_rowDataDone {s : State} (hl : s.channelEmitted) (h : s.encoding)
    (hch : 2 ≤ s.ch.toNat) (hlast : s.col.toNat + 1 = s.width.toNat) : (pixelEnded s).rowDataDone := by
  obtain ⟨-, hb, hcol, hle, hocur, hacc, hnb, hpcnt, hhdr⟩ := hl
  have hcol' : (pixelEnded s).col.toNat = s.col.toNat + 1 := ocur_ofNat_toNat (Nat.lt_of_le_of_lt hcol s.width.isLt)
  have hrbu := h.configOk.rbu_of_twentyFour hb
  have hdata : s.ocur.toNat = s.rowStart + s.rbu.toNat := by omega
  exact ⟨h, BitVec.eq_of_toNat_eq (hcol'.trans hlast), hdata, ⟨rfl, hacc, hnb, hpcnt⟩, hhdr⟩

theorem execPk24Byte_completes {s t : State} (hs : s.Inv) (h : execPk24Byte s = .next t) (hi : t.phase = .idle) :
    completes s t := by
  obtain ⟨hp, -, -, -, hbacked, hfits, hadv⟩ := execPk24Byte_next.mp h
  obtain ⟨hbusy, hb, hcol, hle, hocur, hrest⟩ := (phaseOk_pix24 hp).mp hs.phaseOk
  have henc : (emitted (s.sample (sampleIndex24 s)) s).encoding := hs.encoding hbusy
  have hl : (emitted (s.sample (sampleIndex24 s)) s).channelEmitted :=
    ⟨hp, hb, hcol, hle, (emitted_ocur_toNat hfits).trans (congrArg (· + 1) hocur), hrest⟩
  rcases advancePixel_next.mp hadv with ⟨-, rfl⟩ | ⟨hch, -, ⟨hlast, hend⟩ | ⟨-, rfl⟩⟩
  · cases hp.symm.trans hi
  · have hdone := (hl.pixelEnded_rowDataDone henc hch hlast).rowDone_of_idle hend hi
    exact ⟨_, _, ⟨hbacked, hfits⟩, rfl, hdone⟩
  · cases hp.symm.trans hi

theorem execPadByte_completes {s t : State} (hs : s.Inv) (h : execPadByte s = .next t) (hi : t.phase = .idle) :
    completes s t := by
  obtain ⟨hp, -, hbacked, hfits, hcases⟩ := execPadByte_next.mp h
  obtain ⟨hbusy, -, hlt, -, hnb, hch, hocur, hacc, hhdr⟩ := (phaseOk_padw hp).mp hs.phaseOk
  have henc := hs.encoding hbusy
  have hprb := henc.configOk.prb_eq
  have hocur' : (emitted 0x00#8 s).ocur.toNat = s.ocur.toNat + 1 := emitted_ocur_toNat hfits
  rcases hcases with ⟨-, rfl⟩ | ⟨hlast, hnext⟩
  · cases hp.symm.trans hi
  · obtain ⟨-, rfl⟩ := nextRow_next.mp hnext
    have hend : (emitted 0x00#8 s).ocur.toNat = s.rowStart + s.prb.toNat := by omega
    exact ⟨0x00#8, { emitted 0x00#8 s with pcnt := 0 }, ⟨hbacked, hfits⟩, rfl,
      ⟨henc, hend, ⟨hch, hacc, hnb, rfl⟩, hhdr⟩, rfl⟩

theorem exec_completes {s t : State} {i : Instr} (hs : s.Inv) (hi : decodeDisp s.disp = .ok i) (h : exec i s = .next t)
    (ht : t.phase = .idle) : completes s t := by
  obtain ⟨hp, rfl⟩ | ⟨hp, -, rfl⟩ | ⟨-, -, rfl⟩ | ⟨-, rfl⟩ | ⟨-, rfl⟩ := microOperation_cases hi
  · obtain ⟨-, -, hf⟩ := execHdrByte_next.mp h
    obtain ⟨-, -, -, -, -, rfl⟩ := emitField_next.mp hf
    exact absurd ht (advanceHeader_ne_idle (s := emitted _ s) hp _)
  · obtain ⟨-, -, -, -, -, rfl⟩ := execPk1Shift_next.mp h
    cases hp.symm.trans ht
  · exact execPk1Flush_completes hs h ht
  · exact execPk24Byte_completes hs h ht
  · exact execPadByte_completes hs h ht

/-- The registers at the end of an encode with the configuration of `s` (R129, R200). -/
def finalState (s t : State) : Prop :=
  t.ocur.toNat = fileSize s.width.toNat s.height.toNat s.bpp.toNat ∧ s.prb.toNat % 4 = 0 ∧ t.row = s.height ∧
    t.col = 0 ∧ t.ch = 0 ∧ t.acc = 0 ∧ t.nbits = 0 ∧ t.pcnt = 0 ∧ t.fidx.toNat = lastField s.bpp.toNat ∧ t.bidx = 0

/-- `NextRow` after the last row leaves the registers as R200 lists them. -/
theorem State.rowDone.finalState {s : State} (h : s.rowDone) (hi : (rowAfter s).phase = .idle) :
    (rowAfter s).done = true ∧ (rowAfter s).err = .none ∧ (rowAfter s).ocur = s.ocur ∧ finalState s (rowAfter s) := by
  obtain ⟨henc, hocur, ⟨hch, hacc, hnb, hpcnt⟩, hfidx, hbidx⟩ := h
  have ⟨hcfg, _, _, herr, _⟩ := henc
  have ⟨_, _, _, _, _, _, _, _, hmod, _⟩ := hcfg
  have hlast := row_of_rowAfter_idle hi
  have hend : s.ocur.toNat = fileSize s.width.toNat s.height.toNat s.bpp.toNat := by
    rw [hocur, ← hcfg.fileBytes_eq, State.rowStart, State.fileBytes, State.imageBytes, ← hlast, Nat.succ_mul,
      Nat.add_assoc]
  have hrow : BitVec.ofNat 32 (s.row.toNat + 1) = s.height := by
    rw [hlast, BitVec.ofNat_toNat, BitVec.setWidth_eq]
  unfold rowAfter
  rw [if_pos hlast]
  exact ⟨rfl, herr, rfl, hend, hmod, hrow, rfl, hch, hacc, hnb, hpcnt, hfidx, hbidx⟩

theorem finalState.of_keepsConfig {s r t : State} (h : finalState r t) (hk : keepsConfig s r) : finalState s t := by
  obtain ⟨hw, hh, hb, -, -, hprb⟩ := hk
  rwa [finalState, hw, hh, hb, hprb] at h

/-- Settles O49: the completing step emits the byte that ends the last row. -/
theorem completingStepLeavesFinalState : Obligations.CompletingStepLeavesFinalState := by
  intro s t hs hp hh h hi
  obtain ⟨l, i, hdec, he⟩ := step_sequencer hp hh h
  obtain ⟨b, r, hemit, hr, hrow, rfl⟩ := exec_completes (hs.with_host l) hdec he hi
  have hframe : sequencerFrame { s with host := l } r := .inr ⟨b, hemit, hr⟩
  have hocur : r.ocur.toNat = s.ocur.toNat + 1 := by
    rw [hr]
    exact emitted_ocur_toNat (b := b) (s := s) hemit.2
  obtain ⟨hdone, herr, hkept, hfinal⟩ := hrow.finalState hi
  rw [← hkept] at hocur
  exact ⟨hdone, herr, hocur, hfinal.of_keepsConfig hframe.keepsConfig⟩

end Sys2Proof.Machine

/-!
PROOFS. A whole encode (R127, R203): a busy block always has its next step, each step is one of `StepCount`, and so the
image is finished after that many.
-/

namespace Sys2Proof.Machine

/-! ### The next step -/

theorem State.busyOk.ocur_lt {s : State} (h : s.busyOk) : s.ocur.toNat < s.fileBytes := by
  obtain ⟨-, -, -, -, -, -, hocur, -⟩ := h
  exact hocur

/-- The file fits `OUT` and `OCUR` (R122, R204). -/
theorem State.Inv.canEmit {s : State} (hs : s.Inv) (hbusy : s.busyOk) : s.canEmit := by
  have ⟨_, _, _, _, _, _, hocur, _, hout⟩ := hbusy
  have ⟨_, _, _, _, _, _, _, _, _, hfile⟩ := (hs.encoding hbusy).configOk
  have hspan : wordSpan = 2 ^ 32 := rfl
  exact ⟨by omega, by omega⟩

/-- A sample below `Required` is admitted and backed (R69, R122). -/
theorem State.busyOk.canRead {s : State} (h : s.busyOk) {i : Nat} (hi : i < s.requiredSamples) : s.canRead i := by
  obtain ⟨-, -, -, hreq, -, -, -, hpix, -⟩ := h
  exact ⟨by omega, by omega⟩

theorem State.busyOk.row_fits {s : State} (h : s.busyOk) : s.row.toNat + 1 < wordSpan :=
  Nat.lt_of_le_of_lt h.row_lt s.height.isLt

theorem exists_endRowData {s : State} (hrow : s.row.toNat + 1 < wordSpan) : ∃ t, endRowData s = .next t := by
  rcases Nat.eq_zero_or_pos s.pad.toNat with hpad | hpad
  · exact ⟨_, endRowData_next.mpr (.inr ⟨hpad, hrow, rfl⟩)⟩
  · exact ⟨_, endRowData_next.mpr (.inl ⟨hpad, rfl⟩)⟩

theorem exists_advancePixel {s : State} (hrow : s.row.toNat + 1 < wordSpan) (hcol : s.col.toNat + 1 < wordSpan) :
    ∃ t, advancePixel s = .next t := by
  rcases Nat.lt_or_ge s.ch.toNat 2 with hch | hch
  · exact ⟨_, advancePixel_next.mpr (.inl ⟨hch, rfl⟩)⟩
  · by_cases hlast : s.col.toNat + 1 = s.width.toNat
    · obtain ⟨t, ht⟩ := exists_endRowData (s := pixelEnded s) hrow
      exact ⟨t, advancePixel_next.mpr (.inr ⟨hch, hcol, .inl ⟨hlast, ht⟩⟩)⟩
    · exact ⟨_, advancePixel_next.mpr (.inr ⟨hch, hcol, .inr ⟨hlast, rfl⟩⟩)⟩

theorem exists_execHdrByte {s : State} (hs : s.Inv) (hp : s.phase = .hdr) : ∃ t, execHdrByte s = .next t := by
  obtain ⟨hbusy, hfidx, hlane, -⟩ := (phaseOk_hdr hp).mp hs.phaseOk
  obtain ⟨hbacked, hfits⟩ := hs.canEmit hbusy
  rw [execHdrByte_of_selected hp hfidx]
  exact ⟨_, emitField_next.mpr ⟨hp, rfl, hlane, hbacked, hfits, rfl⟩⟩

theorem exists_execPk1Shift {s : State} (hs : s.Inv) (hp : s.phase = .pix1) (hf : s.flush = false) :
    ∃ t, execPk1Shift s = .next t := by
  obtain ⟨hbusy, -, hnb, -⟩ := (phaseOk_pix1 hp).mp hs.phaseOk
  have hshift : s.nbits.toNat < 8 ∧ s.col.toNat < s.width.toNat := by
    rw [← Bool.not_eq_true, flush_iff, flush_iff_not_shift hnb hbusy.col_le, not_not] at hf
    exact hf
  obtain ⟨hadmitted, hbacked⟩ := hbusy.canRead (hs.pixelNumber_lt_required hp hshift.2)
  exact ⟨_, execPk1Shift_next.mpr ⟨hp, hshift.1, hshift.2, hadmitted, hbacked, rfl⟩⟩

theorem exists_execPk1Flush {s : State} (hs : s.Inv) (hp : s.phase = .pix1) (hf : s.flush = true) :
    ∃ t, execPk1Flush s = .next t := by
  obtain ⟨hbusy, -, hnb, -⟩ := (phaseOk_pix1 hp).mp hs.phaseOk
  obtain ⟨hbacked, hfits⟩ := hs.canEmit hbusy
  by_cases hcol : s.col = s.width
  · obtain ⟨t, ht⟩ := exists_endRowData (s := flushed s) hbusy.row_fits
    exact ⟨t, execPk1Flush_next.mpr ⟨hp, hf, hnb, hbacked, hfits, .inl ⟨hcol, ht⟩⟩⟩
  · exact ⟨_, execPk1Flush_next.mpr ⟨hp, hf, hnb, hbacked, hfits, .inr ⟨hcol, rfl⟩⟩⟩

theorem exists_execPk24Byte {s : State} (hs : s.Inv) (hp : s.phase = .pix24) : ∃ t, execPk24Byte s = .next t := by
  obtain ⟨hbusy, -, hcol, hch, -⟩ := (phaseOk_pix24 hp).mp hs.phaseOk
  obtain ⟨hbacked, hfits⟩ := hs.canEmit hbusy
  obtain ⟨hadmitted, hsample⟩ := hbusy.canRead (hs.sampleIndex24_lt_required hp)
  obtain ⟨t, ht⟩ := exists_advancePixel (s := emitted (s.sample (sampleIndex24 s)) s) hbusy.row_fits
    (Nat.lt_of_le_of_lt hcol s.width.isLt)
  exact ⟨t, execPk24Byte_next.mpr ⟨hp, hch, hadmitted, hsample, hbacked, hfits, ht⟩⟩

theorem exists_execPadByte {s : State} (hs : s.Inv) (hp : s.phase = .padw) : ∃ t, execPadByte s = .next t := by
  obtain ⟨hbusy, -, hlt, -⟩ := (phaseOk_padw hp).mp hs.phaseOk
  obtain ⟨hbacked, hfits⟩ := hs.canEmit hbusy
  have hpcnt : s.pcnt.toNat ≤ 2 := by have := s.pad.isLt; omega
  rcases Nat.lt_or_ge (s.pcnt.toNat + 1) s.pad.toNat with hmore | hlast
  · exact ⟨_, execPadByte_next.mpr ⟨hp, hpcnt, hbacked, hfits, .inl ⟨hmore, rfl⟩⟩⟩
  · exact ⟨_, execPadByte_next.mpr ⟨hp, hpcnt, hbacked, hfits, .inr ⟨hlast, nextRow_next.mpr ⟨hbusy.row_fits, rfl⟩⟩⟩⟩

/-- The micro-operation `DISP` selects has a next state in every state of the invariant (R220). -/
theorem exists_exec_of_decodeDisp {s : State} {i : Instr} (hs : s.Inv) (hi : decodeDisp s.disp = .ok i) :
    ∃ t, exec i s = .next t := by
  obtain ⟨hp, rfl⟩ | ⟨hp, hf, rfl⟩ | ⟨hp, hf, rfl⟩ | ⟨hp, rfl⟩ | ⟨hp, rfl⟩ := microOperation_cases hi
  · exact exists_execHdrByte hs hp
  · exact exists_execPk1Shift hs hp hf
  · exact exists_execPk1Flush hs hp hf
  · exact exists_execPk24Byte hs hp
  · exact exists_execPadByte hs hp

/-! ### The number of steps -/

/-- The steps of the encode that have been taken: one for each byte, and at 1 bpp one for each pixel read (R203). -/
def State.stepsTaken (s : State) : Nat := s.ocur.toNat + if s.bpp.toNat = 1 then pixelNumber s else 0

/-- `StepCount` of the configuration in the registers (R203). -/
def State.stepTotal (s : State) : Nat := stepCount s.width.toNat s.height.toNat s.bpp.toNat

theorem stepCount_eq (w h b : Nat) : stepCount w h b = fileSize w h b + if b = 1 then h * w else 0 := by
  unfold stepCount fileSize
  split
  case isTrue hb =>
    subst hb
    rw [Nat.mul_add]
    omega
  case isFalse => rfl

theorem advances.stepsTaken_eq {s t : State} (hs : s.Inv) (h : advances s t) : t.stepsTaken = s.stepsTaken + 1 := by
  have ⟨_, _, hbpp, _⟩ := h.frame.keepsConfig
  rcases h with ⟨hp, -, hcol, rfl⟩ | ⟨b, ⟨-, hfits⟩, -, ht, -, hnumber⟩
  · obtain ⟨-, hb, -⟩ := (phaseOk_pix1 hp).mp hs.phaseOk
    rw [State.stepsTaken, State.stepsTaken, hbpp, if_pos hb, if_pos hb, shiftIn_pixelNumber hcol, shiftIn_ocur,
      Nat.add_assoc]
  · have hocur : t.ocur.toNat = s.ocur.toNat + 1 := by
      rw [ht]
      exact emitted_ocur_toNat (b := b) hfits
    rw [State.stepsTaken, State.stepsTaken, hbpp, hocur]
    split
    case isTrue hb =>
      rw [hnumber hb]
      omega
    case isFalse => rfl

/-- While the encode runs a byte is missing, and no more pixels have been read than there are. -/
theorem State.Inv.stepsTaken_lt {s : State} (hs : s.Inv) (hp : s.phase ≠ .idle) : s.stepsTaken < s.stepTotal := by
  have hbusy := hs.busyOk hp
  have hocur := hbusy.ocur_lt
  have hnumber : pixelNumber s ≤ s.height.toNat * s.width.toNat := by
    have hrow : (s.row.toNat + 1) * s.width.toNat ≤ s.height.toNat * s.width.toNat := Nat.mul_le_mul_right _ hbusy.row_lt
    have hcol := hbusy.col_le
    rw [Nat.succ_mul] at hrow
    rw [pixelNumber, srcRow]
    omega
  rw [(hs.encoding hbusy).configOk.fileBytes_eq] at hocur
  rw [State.stepsTaken, State.stepTotal, stepCount_eq]
  split <;> omega

theorem finalState.stepsTaken_eq {s t : State} (h : finalState s t) (hk : keepsConfig s t) :
    t.stepsTaken = s.stepTotal := by
  obtain ⟨hocur, -, hrow, hcol, -⟩ := h
  obtain ⟨hw, -, hb, -⟩ := hk
  have hnumber : pixelNumber t = s.height.toNat * s.width.toNat := by
    rw [pixelNumber, srcRow, hrow, hcol, hw]
    rfl
  rw [State.stepsTaken, State.stepTotal, stepCount_eq, hocur, hb, hnumber]

/-! ### The run -/

theorem run_succ {M : Host.Core} {s t : M.State} (h : M.step s = .next t) (n : Nat) : M.run (n + 1) s = M.run n t := by
  rw [Host.Core.run, h]

theorem run_of_step {s t : State} (h : step s = .next t) (n : Nat) : core.run (n + 1) s = core.run n t :=
  run_succ (M := core) h n

/-- An encode in progress that the host leaves to the block, its output so far the image's (R127). -/
def State.midEncode (s : State) : Prop := s.Inv ∧ s.phase ≠ .idle ∧ s.host = [] ∧ s.outputOk ∧ s.accOk

/-- What a part of an encode leaves: the configuration, `PIX`, the image, and the bytes of `OUT` past the file. -/
def keepsEncode (s t : State) : Prop :=
  keepsConfig s t ∧ t.pix = s.pix ∧ t.image = s.image ∧ ∀ a, s.fileBytes ≤ a → t.outByte a = s.outByte a

theorem keepsEncode.trans {s t u : State} (h : keepsEncode s t) (h' : keepsEncode t u) : keepsEncode s u := by
  obtain ⟨⟨hw, hh, hb, hrbu, hpad, hprb⟩, hpix, himage, hout⟩ := h
  obtain ⟨⟨hw', hh', hb', hrbu', hpad', hprb'⟩, hpix', himage', hout'⟩ := h'
  have hfile : t.fileBytes = s.fileBytes := by
    rw [State.fileBytes, State.fileBytes, State.imageBytes, State.imageBytes, hb, hh, hprb]
  rw [hfile] at hout'
  exact ⟨⟨hw'.trans hw, hh'.trans hh, hb'.trans hb, hrbu'.trans hrbu, hpad'.trans hpad, hprb'.trans hprb⟩,
    hpix'.trans hpix, himage'.trans himage, fun a ha => (hout' a ha).trans (hout a ha)⟩

theorem sequencerFrame.keepsEncode {s t : State} (h : sequencerFrame s t) (hbusy : s.busyOk) : keepsEncode s t := by
  obtain ⟨hpix, -⟩ := h.keepsPlatform
  exact ⟨h.keepsConfig, hpix, h.image, fun _ ha => h.outByte_of_ne (Nat.ne_of_gt (hbusy.ocur_lt.trans_le ha))⟩

/-- The encode with the configuration of `s` is finished, its image in `OUT` (R127). -/
def encodeFinished (s u : State) : Prop :=
  u.phase = .idle ∧ u.done = true ∧ u.err = .none ∧ finalState s u ∧ u.outputOk

/-- With the host idle a busy block takes its next step, which is one of the encode's. -/
theorem State.midEncode.exists_step {s : State} (h : s.midEncode) : ∃ t, step s = .next t ∧ advances s t := by
  obtain ⟨hs, hp, hh, -, ha⟩ := h
  obtain ⟨i, hi⟩ := exists_decodeDisp_of_busy hp
  obtain ⟨t, ht⟩ := exists_exec_of_decodeDisp hs hi
  exact ⟨t, ((stepRunsSelectedMicroOperation s i hi).1 (.inl hh)).trans ht, exec_advances hs ha hi ht⟩

/-- The steps that are left finish the encode: the induction is on their number. -/
theorem State.midEncode.run_finishes (n : Nat) {s : State} (h : s.midEncode) (hn : s.stepsTaken + n = s.stepTotal) :
    ∃ u, core.run n s = .next u ∧ encodeFinished s u ∧ keepsEncode s u := by
  induction n generalizing s with
  | zero =>
    obtain ⟨hs, hp, -⟩ := h
    exact absurd hn (hs.stepsTaken_lt hp).ne
  | succ n ih =>
    obtain ⟨t, hstep, hadv⟩ := h.exists_step
    obtain ⟨hs, hp, hh, ho, ha⟩ := h
    have hframe := hadv.frame
    have hkeep := hframe.keepsEncode (hs.busyOk hp)
    have htaken := hadv.stepsTaken_eq hs
    rw [run_of_step hstep]
    by_cases hi : t.phase = .idle
    · obtain ⟨hdone, herr, -, hregs⟩ := completingStepLeavesFinalState s t hs hp (.inl hh) hstep hi
      have hfinal : finalState s t := hregs
      have hcount := hfinal.stepsTaken_eq hframe.keepsConfig
      obtain rfl : n = 0 := by omega
      exact ⟨t, rfl, ⟨hi, hdone, herr, hfinal, hadv.outputOk ho⟩, hkeep⟩
    · obtain ⟨-, -, -, hhost⟩ := hframe.keepsPlatform
      have ht : t.midEncode :=
        ⟨everyStepKeepsInvariant s t hs hstep, hi, hhost.trans hh, hadv.outputOk ho, hadv.accOk ha⟩
      have ⟨hw, hh', hb, _⟩ := hframe.keepsConfig
      have htotal : t.stepTotal = s.stepTotal := by rw [State.stepTotal, State.stepTotal, hw, hh', hb]
      obtain ⟨u, hrun, ⟨hi', hdone, herr, hfinal, hout⟩, hkeep'⟩ := ih ht (by omega)
      exact ⟨u, hrun, ⟨hi', hdone, herr, hfinal.of_keepsConfig hframe.keepsConfig, hout⟩, hkeep.trans hkeep'⟩

/-- An `ENC` that leaves the block busy starts an encode with no step taken, and keeps what an encode keeps. -/
theorem execEnc_midEncode {n : BitVec 64} {s t : State} (hs : s.Inv) (hh : s.host = []) (h : execEnc n s = .next t)
    (hp : t.phase = .hdr) : t.midEncode ∧ t.stepsTaken = 0 ∧ keepsEncode s t := by
  have hinv := execEnc_inv hs h
  obtain ⟨hidle, -, -, -, ⟨-, rfl⟩ | ⟨-, rfl⟩⟩ := execEnc_next.mp h
  · cases hidle.symm.trans hp
  · refine ⟨⟨hinv, by simp, hh, fun a ha => absurd ha (Nat.not_lt_zero a), fun h => by cases h⟩, ?_,
      ⟨⟨rfl, rfl, rfl, rfl, rfl, rfl⟩, rfl, rfl, fun _ _ => rfl⟩⟩
    simp [State.stepsTaken, pixelNumber, srcRow]

/-- With all of its bytes emitted, `OUT[0 .. OCUR-1]` is the image. -/
theorem State.outputOk.result_eq {s : State} (h : s.outputOk) (hlen : s.image.length = s.ocur.toNat) :
    s.result = s.image := by
  refine List.ext_getElem? fun a => ?_
  rcases Nat.lt_or_ge a s.ocur.toNat with ha | ha
  · rw [h a ha]
    simp [State.result, ha]
  · rw [List.getElem?_eq_none (hlen.trans_le ha), List.getElem?_eq_none (by simpa [State.result] using ha)]

/-- Settles O51: the accepted `ENC` leaves all of `StepCount` to go. -/
theorem acceptedEncProducesImage : Obligations.AcceptedEncProducesImage := by
  intro s t pixlen hs hh h hp
  have ⟨_, hcfgv, _⟩ := execEnc_next.mp h
  have ⟨_, hcfg, _⟩ := hs
  have hfile := (hcfg hcfgv).fileBytes_eq
  obtain ⟨hmid, htaken, hstart⟩ := execEnc_midEncode hs hh h hp
  obtain ⟨u, hrun, ⟨hi, hdone, herr, hfinal, hout⟩, hkeep⟩ := hmid.run_finishes t.stepTotal (by omega)
  have ⟨hconfig, _⟩ := hstart
  have ⟨hocur, _⟩ := hfinal.of_keepsConfig hconfig
  obtain ⟨-, hpix, himage, hbytes⟩ := hstart.trans hkeep
  rw [hfile] at hbytes
  have hlen : u.image.length = u.ocur.toNat := by
    rw [himage, hocur]
    exact (imageHasFileSizeBytes _ _ _ _ (hcfg hcfgv).depth).2.2
  obtain ⟨hw, hh', hb, -⟩ := hconfig
  rw [State.stepTotal, hw, hh', hb] at hrun
  exact ⟨u, hrun, hi, hdone, herr, hocur, (hout.result_eq hlen).trans himage, hbytes, hpix⟩

end Sys2Proof.Machine

/-!
PROOFS. The header serializer, field by field (R141 to R160): what one emitted byte of a field changes, said once for
all seventeen emitters and `HDR.BYTE`; the value each field takes from the registers; and the byte's place in the
header.
-/

namespace Sys2Proof.Machine

/-! ### One byte of a field -/

/-- An `Emit`, after which the sequencer only moves on, emits its one byte (R64). -/
theorem emitsByte_emitted {b : Byte} {s : State} (hfits : s.ocur.toNat + 1 < wordSpan) (t : State) :
    emitsByte b s ((emitted b s).withPosition t) :=
  ⟨(outByte_emitted b s _).trans (if_pos rfl), emitted_ocur_toNat (b := b) hfits, rfl,
    fun a ha => (outByte_emitted b s a).trans (if_neg ha), rfl, rfl, rfl⟩

/-- The tail of `HDR.BYTE` moves the header's position and the phase only. -/
theorem advanceHeader_frame (n : Nat) (s : State) :
    (advanceHeader n s).done = s.done ∧ (advanceHeader n s).row = s.row ∧ (advanceHeader n s).col = s.col ∧
      keepsPackers s (advanceHeader n s) := by
  unfold advanceHeader
  split
  · exact ⟨rfl, rfl, rfl, rfl, rfl, rfl, rfl⟩
  · split <;> exact ⟨rfl, rfl, rfl, rfl, rfl, rfl, rfl⟩

/-- The lane after a field's lane is one more: no field has more than four lanes. -/
theorem nextLane_toNat {k i : Nat} (h : i + 1 < fieldSize k) : (BitVec.ofNat 2 (i + 1)).toNat = i + 1 := by
  have hsize : fieldSize k ≤ 4 := by
    unfold fieldSize
    split <;> decide
  exact Nat.mod_eq_of_lt (h.trans_le hsize)

/-- A step of the serializer is all that R141 says of it: the lane, the position and the frame. -/
theorem fieldByteEmitted_of_emitField {k v : Nat} {s t : State} (hk : k ≤ 16) (h : emitField k v s = .next t) :
    fieldByteEmitted k v s t := by
  have hframe := emitField_frame h
  obtain ⟨hp, rfl, -, -, hfits, rfl⟩ := emitField_next.mp h
  have hbyte := emitsByte_emitted (b := lane v s.bidx.toNat) hfits
    (advanceHeader (fieldSize s.fidx.toNat) (emitted (lane v s.bidx.toNat) s))
  rw [← advanceHeader_eq_withPosition] at hbyte
  refine ⟨hbyte, ?_, hframe.keepsConfig, hframe.keepsCommandRegs, advanceHeader_frame _ _⟩
  unfold advanceHeader
  split
  case isTrue hnext => exact ⟨nextLane_toNat hnext, rfl, hp⟩
  case isFalse =>
    split
    case isTrue => exact ⟨rfl, rfl, rfl⟩
    case isFalse => exact ⟨rfl, Nat.mod_eq_of_lt ((Nat.succ_le_succ hk).trans_lt (by decide)), hp⟩

/-- A selected lane that can be emitted is emitted. -/
theorem exists_emitField {k : Nat} {s : State} (v : Nat) (hk : k ≤ 16) (h : s.atField k) :
    ∃ t, emitField k v s = .next t ∧ fieldByteEmitted k v s t := by
  obtain ⟨hp, hf, hlane, hbacked, hfits⟩ := h
  have hstep := emitField_next (v := v).mpr ⟨hp, hf, hlane, hbacked, hfits, rfl⟩
  exact ⟨_, hstep, fieldByteEmitted_of_emitField hk hstep⟩

theorem toNat_le_sixteen_of_decodeFidx {f : BitVec 5} {i : Instr} (hi : decodeFidx f = .ok i) : f.toNat ≤ 16 := by
  unfold decodeFidx at hi
  generalize f.toNat = k at *
  split at hi
  case h_18 => cases hi
  all_goals decide

/-- The emitter of index `f` emits a byte of field `f` (R101), a palette emitter at 1 bpp (R157, R158). -/
theorem exec_emits {f : BitVec 5} {i : Instr} {s : State} {v : Nat} (hi : decodeFidx f = .ok i)
    (hb : f.toNat < 15 ∨ s.bpp.toNat = 1) (hv : registerValue s f.toNat = v) (h : s.atField f.toNat) :
    ∃ t, exec i s = .next t ∧ fieldByteEmitted f.toNat v s t := by
  rw [exec_of_decodeFidx hi hb, hv]
  exact exists_emitField v (toNat_le_sixteen_of_decodeFidx hi) h

/-! ### The fields -/

/-- Settles O22: the emitters of the fields whose value is a constant. -/
theorem constantFieldsEmitted : Obligations.ConstantFieldsEmitted := by
  refine ⟨by decide, by decide, by decide, by decide, by decide, fun s => ⟨?_, ?_, ?_, ?_, ?_, ?_, ?_⟩⟩
  · exact exec_emits (f := 0) rfl (.inl (by decide)) rfl
  · exact exec_emits (f := 2) rfl (.inl (by decide)) rfl
  · exact exec_emits (f := 4) rfl (.inl (by decide)) rfl
  · exact exec_emits (f := 7) rfl (.inl (by decide)) rfl
  · exact exec_emits (f := 9) rfl (.inl (by decide)) rfl
  · exact exec_emits (f := 11) rfl (.inl (by decide)) rfl
  · exact exec_emits (f := 12) rfl (.inl (by decide)) rfl

/-- Settles O23: the emitters of the fields whose value is one of the image's sizes, as the registers give it. -/
theorem sizeFieldsEmitted : Obligations.SizeFieldsEmitted := by
  refine ⟨by decide, fun s => ⟨?_, ?_, ?_, ?_, ?_, ?_⟩⟩
  · exact exec_emits (f := 1) rfl (.inl (by decide)) rfl
  · exact exec_emits (f := 3) rfl (.inl (by decide)) rfl
  · exact exec_emits (f := 5) rfl (.inl (by decide)) rfl
  · exact exec_emits (f := 6) rfl (.inl (by decide)) rfl
  · exact exec_emits (f := 8) rfl (.inl (by decide)) rfl
  · exact exec_emits (f := 10) rfl (.inl (by decide)) rfl

/-- The header counts two colours at 1 bpp (R155, R156). -/
theorem colourCount_eq (s : State) :
    (if s.bpp = 1#16 then 2 else 0) = if s.bpp.toNat = 1 then 2 else 0 := if_congr BitVec.toNat_inj.symm rfl rfl

/-- Settles O24: the colour counts at every depth, the palette at 1 bpp and its refusal at any other. -/
theorem colourFieldsEmitted : Obligations.ColourFieldsEmitted := by
  refine ⟨by decide, by decide, by decide, fun s => ⟨?_, ?_, fun hb => ⟨?_, ?_⟩, fun hb => ?_⟩⟩
  · exact exec_emits (f := 13) rfl (.inl (by decide)) (colourCount_eq s)
  · exact exec_emits (f := 14) rfl (.inl (by decide)) (colourCount_eq s)
  · exact exec_emits (f := 15) rfl (.inr hb) rfl
  · exact exec_emits (f := 16) rfl (.inr hb) rfl
  · exact ⟨emitPalette_of_absent hb, emitPalette_of_absent hb⟩

/-- Where `PRB` is the stride of `WIDTH` and `BPP`, the registers give the contract's field values. -/
theorem registerValue_eq_headerValue {s : State} (hprb : s.prb.toNat = paddedRowBytes s.width.toNat s.bpp.toNat)
    (k : Nat) : registerValue s k = headerValue s.width.toNat s.height.toNat s.bpp.toNat k := by
  have himage : s.imageBytes = imageSize s.width.toNat s.height.toNat s.bpp.toNat :=
    congrArg (s.height.toNat * ·) hprb
  have hfile : s.fileBytes = fileSize s.width.toNat s.height.toNat s.bpp.toNat :=
    congrArg (headerSize s.bpp.toNat + ·) himage
  match k with
  | 1 => exact hfile
  | 10 => exact himage
  | 13 | 14 => exact colourCount_eq s
  | 0 | 2 | 3 | 4 | 5 | 6 | 7 | 8 | 9 | 11 | 12 | 15 | 16 | _ + 17 => rfl

/-- Settles O25: `HDR.BYTE` is the serializer's step with field `FIDX`, whose value is the header's. -/
theorem hdrByteEmitsHeaderLane : Obligations.HdrByteEmitsHeaderLane := by
  intro s hp hf hlane hemit hprb
  have hk : s.fidx.toNat ≤ 16 := hf.trans (lastField_le_sixteen _)
  rw [← registerValue_eq_headerValue hprb, exec, execHdrByte_of_selected hp hf]
  exact exists_emitField _ hk ⟨hp, rfl, hlane, hemit⟩

/-! ### The byte's place in the header -/

/-- `Lane(v, i)` by division (R10). -/
theorem lane_eq_div (v i : Nat) : lane v i = BitVec.ofNat 8 (v / 256 ^ i) := by
  have hpow : 2 ^ (8 * i) = 256 ^ i := Nat.pow_mul 2 8 i
  have hlow : v / 256 ^ i &&& 0xFF = v / 256 ^ i % 2 ^ 8 := Nat.and_two_pow_sub_one_eq_mod _ 8
  refine BitVec.eq_of_toNat_eq ?_
  rw [lane, Nat.shiftRight_eq_div_pow, hpow, hlow, BitVec.toNat_ofNat, BitVec.toNat_ofNat, Nat.mod_mod]

/-- Settles O26: the fields tile the header, and each is written little-endian. -/
theorem headerByteIsLaneOfItsField : Obligations.HeaderByteIsLaneOfItsField := by
  intro w h b k i hk hi
  rw [← lane_eq_div]
  exact getElem?_fields (headerValue w h b) (Nat.lt_succ_of_le hk) hi

end Sys2Proof.Machine

/-!
PROOFS. The 1-bit row packer (R170 to R174): the bits of a packed row, what a shift and a flush do to every register and
byte, and what `EndRowData` and `NextRow` do wherever they are called (R198, R200).
-/

namespace Sys2Proof.Machine

/-! ### The end of a row -/

/-- `NextRow` moves to the first column of the next row, or completes the encode (R200). -/
theorem rowAdvanced_rowAfter {s : State} (hrow : s.row.toNat + 1 < wordSpan) : rowAdvanced s (rowAfter s) := by
  have hnext : (BitVec.ofNat 32 (s.row.toNat + 1)).toNat = s.row.toNat + 1 := ocur_ofNat_toNat hrow
  unfold rowAdvanced rowAfter
  split
  · exact ⟨rfl, hnext, rfl, rfl⟩
  · exact ⟨rfl, hnext, rfl, rfl⟩

theorem rowAfter_keepsPackers (s : State) : keepsPackers s (rowAfter s) := by
  unfold rowAfter
  split <;> exact ⟨rfl, rfl, rfl, rfl⟩

theorem rowAfter_keepsHeaderPos (s : State) : keepsHeaderPos s (rowAfter s) := by
  unfold rowAfter
  split <;> exact ⟨rfl, rfl⟩

/-- `EndRowData`, called with `COL` at `WIDTH`, is all that R198 says of it. -/
theorem rowDataEnded_of_endRowData {s t : State} (hcol : s.col = s.width) (h : endRowData s = .next t) :
    rowDataEnded s t := by
  unfold rowDataEnded
  rcases endRowData_next.mp h with ⟨hpad, rfl⟩ | ⟨hpad, hrow, rfl⟩
  · rw [if_pos hpad]
    exact ⟨rfl, rfl, rfl, hcol, rfl⟩
  · obtain ⟨-, -, -, hpcnt⟩ := rowAfter_keepsPackers s
    rw [if_neg (Nat.not_lt.mpr hpad.le)]
    exact ⟨rowAdvanced_rowAfter hrow, hpcnt⟩

/-- What `EndRowData` leaves of the working registers (R198). -/
theorem endRowData_keepsWork {s t : State} (h : endRowData s = .next t) :
    t.ch = s.ch ∧ t.acc = s.acc ∧ t.nbits = s.nbits ∧ keepsHeaderPos s t := by
  rcases endRowData_next.mp h with ⟨-, rfl⟩ | ⟨-, -, rfl⟩
  · exact ⟨rfl, rfl, rfl, rfl, rfl⟩
  · obtain ⟨hch, hacc, hnb, -⟩ := rowAfter_keepsPackers s
    exact ⟨hch, hacc, hnb, rowAfter_keepsHeaderPos s⟩

/-! ### `PK1.SHIFT` -/

theorem bit1_toNat (v : Byte) : (bit1 v).toNat = if v = 0xFF#8 then 1 else 0 := by
  unfold bit1
  split <;> rfl

/-- `ACC` doubles, and the new bit comes in below (R173). -/
theorem shiftIn_acc_toNat (v : Byte) (s : State) :
    (shiftIn v s).acc.toNat = (2 * s.acc.toNat + if v = 0xFF#8 then 1 else 0) % 256 := by
  rw [shiftIn_acc, BitVec.toNat_or, BitVec.toNat_shiftLeft, BitVec.toNat_setWidth, ← Nat.or_mod_two_pow,
    ← Nat.shiftLeft_add_eq_or_of_lt (bit1 v).isLt, Nat.shiftLeft_eq, bit1_toNat, Nat.mul_comm]

/-- Settles O27: the sample is there to be read, and the bit of it is shifted in. -/
theorem pk1ShiftTakesOneSample : Obligations.Pk1ShiftTakesOneSample := by
  intro s hp hnb hcol hread
  obtain ⟨hadmitted, hbacked⟩ := hread
  exact ⟨_, execPk1Shift_next.mpr ⟨hp, hnb, hcol, hadmitted, hbacked, rfl⟩, shiftIn_acc_toNat _ s,
    Nat.mod_eq_of_lt (by omega), ocur_ofNat_toNat (Nat.lt_of_le_of_lt hcol s.width.isLt), hp, rfl, rfl, rfl, rfl,
    ⟨rfl, rfl⟩, ⟨rfl, rfl, rfl, rfl, rfl, rfl⟩, ⟨rfl, rfl, rfl⟩, rfl, rfl, fun _ _ => rfl, rfl, rfl, rfl⟩

/-! ### `PK1.FLUSH` -/

/-- The bits of `ACC` left-justified, by multiplication (R174). -/
theorem flushByte_eq_ofNat (s : State) : flushByte s = BitVec.ofNat 8 (s.acc.toNat * 2 ^ (8 - s.nbits.toNat)) := by
  refine BitVec.eq_of_toNat_eq ?_
  rw [flushByte, BitVec.toNat_shiftLeft, Nat.shiftLeft_eq, BitVec.toNat_ofNat]

theorem execPk1Flush_emitsByte {s t : State} (h : execPk1Flush s = .next t) : emitsByte (flushByte s) s t := by
  obtain ⟨-, -, -, -, hfits, hcases⟩ := execPk1Flush_next.mp h
  have hpos : t = (flushed s).withPosition t := by
    rcases hcases with ⟨-, hend⟩ | ⟨-, rfl⟩
    · exact endRowData_eq_withPosition hend
    · rfl
  rw [hpos]
  exact emitsByte_emitted hfits t

/-- A flush leaves no bit in `ACC`, and ends the row or stays in `PIX1` for the row's next columns (R174). -/
theorem execPk1Flush_moves {s t : State} (h : execPk1Flush s = .next t) :
    t.acc = 0 ∧ t.nbits = 0 ∧
      (if s.col = s.width then rowDataEnded s t
       else t.phase = .pix1 ∧ t.row = s.row ∧ t.col = s.col ∧ t.pcnt = s.pcnt ∧ t.done = s.done) ∧
      t.ch = s.ch ∧ keepsHeaderPos s t := by
  obtain ⟨hp, -, -, -, -, ⟨hcol, hend⟩ | ⟨hcol, rfl⟩⟩ := execPk1Flush_next.mp h
  · obtain ⟨hch, hacc, hnb, hhdr⟩ := endRowData_keepsWork hend
    have hrow : rowDataEnded (flushed s) t := rowDataEnded_of_endRowData hcol hend
    rw [if_pos hcol]
    exact ⟨hacc, hnb, hrow, hch, hhdr⟩
  · rw [if_neg hcol]
    exact ⟨rfl, rfl, ⟨hp, rfl, rfl, rfl, rfl⟩, rfl, rfl, rfl⟩

/-- A selected flush that can emit has its step, in whatever state (R174, R204). -/
theorem exists_execPk1Flush_of_selected {s : State} (hp : s.phase = .pix1) (hf : s.flush = true)
    (hnb : s.nbits.toNat ≤ 8) (hemit : s.canEmit) (hrow : s.row.toNat + 1 < wordSpan) :
    ∃ t, execPk1Flush s = .next t := by
  obtain ⟨hbacked, hfits⟩ := hemit
  by_cases hcol : s.col = s.width
  · obtain ⟨t, hend⟩ := exists_endRowData (s := flushed s) hrow
    exact ⟨t, execPk1Flush_next.mpr ⟨hp, hf, hnb, hbacked, hfits, .inl ⟨hcol, hend⟩⟩⟩
  · exact ⟨_, execPk1Flush_next.mpr ⟨hp, hf, hnb, hbacked, hfits, .inr ⟨hcol, rfl⟩⟩⟩

/-- Settles O28: the flush has its step, which emits the one byte, moves on and leaves the rest to the frame. -/
theorem pk1FlushEmitsPackedByte : Obligations.Pk1FlushEmitsPackedByte := by
  intro s hp hflush hnb hemit hrow
  obtain ⟨t, ht⟩ := exists_execPk1Flush_of_selected hp (flush_iff.mpr hflush) hnb hemit hrow
  have hframe := execPk1Flush_frame ht
  obtain ⟨hacc, hnbits, hend, hch, hhdr⟩ := execPk1Flush_moves ht
  rw [← flushByte_eq_ofNat]
  exact ⟨t, ht, execPk1Flush_emitsByte ht, hacc, hnbits, hend, hch, hhdr, hframe.keepsConfig, hframe.keepsCommandRegs⟩

/-! ### The bits of a packed row -/

theorem rowBytesUnpadded_one (w : Nat) : rowBytesUnpadded w 1 = (w + 7) / 8 := by
  rw [rowBytesUnpadded, ceilDiv, Nat.mul_one]
  rfl

/-- Settles O37: each bit of a packed byte says whether its column exists and is white. -/
theorem packedBitIsWhiteColumn : Obligations.PackedBitIsWhiteColumn := by
  intro w q j k pix hj hk
  rw [← rowBytesUnpadded_one] at hj ⊢
  refine ⟨row1Bytes_length w pix q, row1Byte w pix q j, row1Bytes_getElem? pix q hj, ?_⟩
  rw [row1Byte_getLsbD w pix q j hk, whiteColumn, decide_eq_true_iff]

end Sys2Proof.Machine

/-!
PROOFS. The 24-bit row packer (R181, R183): where `PK24.BYTE` moves after its sample, and the byte it emits.
-/

namespace Sys2Proof.Machine

/-- After a sample comes the next channel, the next pixel, or the end of the row's data (R181). -/
theorem advancePixel_moves {s t : State} (hp : s.phase = .pix24) (h : advancePixel s = .next t) :
    (if s.ch.toNat < 2 then
      t.ch.toNat = s.ch.toNat + 1 ∧ t.phase = .pix24 ∧ t.row = s.row ∧ t.col = s.col ∧ t.pcnt = s.pcnt ∧ t.done = s.done
    else
      t.ch = 0 ∧
        if s.col.toNat + 1 = s.width.toNat then rowDataEnded s t
        else t.col.toNat = s.col.toNat + 1 ∧ t.phase = .pix24 ∧ t.row = s.row ∧ t.pcnt = s.pcnt ∧ t.done = s.done) := by
  rcases advancePixel_next.mp h with ⟨hch, rfl⟩ | ⟨hch, hfits, hcases⟩
  · rw [if_pos hch]
    exact ⟨Nat.mod_eq_of_lt (by omega), hp, rfl, rfl, rfl, rfl⟩
  · rw [if_neg (Nat.not_lt.mpr hch)]
    have hcol : (pixelEnded s).col.toNat = s.col.toNat + 1 := ocur_ofNat_toNat hfits
    rcases hcases with ⟨hlast, hend⟩ | ⟨hmore, rfl⟩
    · obtain ⟨hch', -⟩ := endRowData_keepsWork hend
      have hrow : rowDataEnded (pixelEnded s) t :=
        rowDataEnded_of_endRowData (BitVec.eq_of_toNat_eq (hcol.trans hlast)) hend
      rw [if_pos hlast]
      exact ⟨hch', hrow⟩
    · rw [if_neg hmore]
      exact ⟨rfl, hcol, hp, rfl, rfl, rfl⟩

/-- The 1-bit packer's registers and the header's position are not the 24-bit packer's to move (R181). -/
theorem advancePixel_keepsWork {s t : State} (h : advancePixel s = .next t) :
    t.acc = s.acc ∧ t.nbits = s.nbits ∧ keepsHeaderPos s t := by
  rcases advancePixel_next.mp h with ⟨-, rfl⟩ | ⟨-, -, ⟨-, hend⟩ | ⟨-, rfl⟩⟩
  · exact ⟨rfl, rfl, rfl, rfl⟩
  · obtain ⟨-, hkept⟩ := endRowData_keepsWork hend
    exact hkept
  · exact ⟨rfl, rfl, rfl, rfl⟩

/-- The byte emitted is the sample itself (R183). -/
theorem execPk24Byte_emitsByte {s t : State} (h : execPk24Byte s = .next t) :
    emitsByte (s.sample (sampleIndex24 s)) s t := by
  obtain ⟨-, -, -, -, -, hfits, hadv⟩ := execPk24Byte_next.mp h
  have hpos : t = (emitted (s.sample (sampleIndex24 s)) s).withPosition t := advancePixel_eq_withPosition hadv
  rw [hpos]
  exact emitsByte_emitted hfits t

/-- Settles O29: the sample is there to be read, its byte is emitted, and the tail of the step moves on to the next channel,
the next pixel or the end of the row. -/
theorem pk24ByteEmitsOneSample : Obligations.Pk24ByteEmitsOneSample := by
  intro s hp hch hcol hrow ⟨hadmitted, hbacked⟩ ⟨hroom, hfits⟩
  obtain ⟨t, hadv⟩ := exists_advancePixel (s := emitted (s.sample (sampleIndex24 s)) s) hrow
    (Nat.lt_of_le_of_lt hcol s.width.isLt)
  have hstep : execPk24Byte s = .next t :=
    execPk24Byte_next.mpr ⟨hp, hch, hadmitted, hbacked, hroom, hfits, hadv⟩
  have hframe := execPk24Byte_frame hstep
  have hmoves := advancePixel_moves (s := emitted (s.sample (sampleIndex24 s)) s) hp hadv
  obtain ⟨hacc, hnbits, hhdr⟩ := advancePixel_keepsWork hadv
  exact ⟨t, hstep, execPk24Byte_emitsByte hstep, hmoves, hacc, hnbits, hhdr, hframe.keepsConfig, hframe.keepsCommandRegs⟩

end Sys2Proof.Machine

/-!
PROOFS. The stride and alignment engine (R190 to R204): the laws of its calculator, the padding writer, and the changes of
`PHASE`, which `EndRowData` and `NextRow` make at the end of a row (R198, R200, R202).
-/

namespace Sys2Proof.Machine

/-! ### The calculator -/

/-- The stride is the row's bytes rounded up to whole words of four bytes (R197). -/
theorem paddedRowBytes_eq_four_mul (w b : Nat) : paddedRowBytes w b = 4 * ((rowBytesUnpadded w b + 3) / 4) := by
  unfold paddedRowBytes padding
  omega

/-- No multiple of four that holds the row is below the stride (R197). -/
theorem paddedRowBytes_le_of_dvd {w b m : Nat} (hm : m % 4 = 0) (hle : rowBytesUnpadded w b ≤ m) :
    paddedRowBytes w b ≤ m := by
  rw [paddedRowBytes_eq_four_mul]
  omega

/-- A packed row has the fewest whole bytes that hold its bits (R191). -/
theorem rowBytesUnpadded_one_bounds {w : Nat} (hw : 1 ≤ w) :
    8 * (rowBytesUnpadded w 1 - 1) < w ∧ w ≤ 8 * rowBytesUnpadded w 1 := by
  rw [rowBytesUnpadded_one]
  omega

theorem rowBytesUnpadded_pos {w b : Nat} (hw : 1 ≤ w) (hb : b = 1 ∨ b = 24) : 1 ≤ rowBytesUnpadded w b := by
  rcases hb with rfl | rfl
  · obtain ⟨-, hwide⟩ := rowBytesUnpadded_one_bounds hw
    omega
  · rw [rowBytesUnpadded_twentyFour]
    omega

theorem padding_three_mul (w : Nat) : padding (3 * w) = w % 4 := by
  unfold padding
  omega

theorem fiftyFour_le_headerSize (b : Nat) : 54 ≤ headerSize b := by
  unfold headerSize
  split <;> decide

/-- Settles O34: a row has at least one byte, and the stride rounds its bytes up to a multiple of four. -/
theorem strideIsLeastMultipleOfFour : Obligations.StrideIsLeastMultipleOfFour := by
  intro w b hw hb
  have hpos := rowBytesUnpadded_pos hw hb
  have hround := paddedRowBytes_eq_four_mul w b
  have hfour : 4 ≤ paddedRowBytes w b := by omega
  refine ⟨hpos, padding_le_three _, add_padding_mod_four _, Nat.le_add_right _ _,
    fun m hm hle => paddedRowBytes_le_of_dvd hm hle, hround, hfour, ?_, ?_, fun h hh => ⟨rfl, ?_⟩⟩
  · rintro rfl
    exact rowBytesUnpadded_one_bounds hw
  · rintro rfl
    rw [rowBytesUnpadded_twentyFour]
    exact ⟨rfl, padding_three_mul w⟩
  · exact Nat.add_le_add (fiftyFour_le_headerSize b) (hfour.trans (Nat.le_mul_of_pos_left _ hh))

/-- The pixel of a row and a column of the image is one of its `w * h` (R61). -/
theorem pixel_lt {w h r c : Nat} (hr : r < h) (hc : c < w) : r * w + c < w * h := by
  calc r * w + c < (r + 1) * w := by rw [Nat.succ_mul]; omega
    _ ≤ h * w := Nat.mul_le_mul_right w hr
    _ = w * h := Nat.mul_comm h w

/-- The rows without their padding are no larger than the image. -/
theorem rowBytesUnpadded_mul_le_imageSize (w h b : Nat) : rowBytesUnpadded w b * h ≤ imageSize w h b :=
  (Nat.mul_comm _ _).trans_le (Nat.mul_le_mul_left h (Nat.le_add_right _ _))

/-- Settles O35: the domain bounds the file, the file the image, and the image the samples. -/
theorem domainArithmeticFits : Obligations.DomainArithmeticFits := by
  intro w h b hb hdomain
  obtain ⟨hw, hw', hh, -, hsupported⟩ := inDomain_iff.mp hdomain
  have hfile := hsupported (depthSupported_iff.mpr hb)
  have hsum : fileSize w h b = headerSize b + imageSize w h b := rfl
  have hheader := fiftyFour_le_headerSize b
  have hrow : paddedRowBytes w b ≤ imageSize w h b := Nat.le_mul_of_pos_left _ hh
  have hrows := rowBytesUnpadded_mul_le_imageSize w h b
  have hbits : w * b < 2 ^ 36 := by rcases hb with rfl | rfl <;> omega
  refine ⟨hbits, Nat.le_add_right _ _, by omega, by omega, by omega, fun r c hr hc => ?_⟩
  have hpixel := pixel_lt hr hc
  constructor
  · rintro rfl
    rw [rowBytesUnpadded_twentyFour] at hrows
    exact ⟨by rw [Nat.mul_assoc]; omega, hrows⟩
  · rintro rfl
    obtain ⟨-, hwide⟩ := rowBytesUnpadded_one_bounds hw
    exact ⟨hpixel, Nat.mul_le_mul_right h hwide, by rw [Nat.mul_assoc]; omega⟩

/-! ### `PAD.BYTE` -/

theorem execPadByte_emitsByte {s t : State} (h : execPadByte s = .next t) : emitsByte 0x00#8 s t := by
  obtain ⟨-, -, -, hfits, hcases⟩ := execPadByte_next.mp h
  have hpos : t = (emitted 0x00#8 s).withPosition t := by
    rcases hcases with ⟨-, rfl⟩ | ⟨-, hnext⟩
    · rfl
    · obtain ⟨-, rfl⟩ := nextRow_next.mp hnext
      exact rowAfter_eq_withPosition _
  rw [hpos]
  exact emitsByte_emitted hfits t

/-- After a byte of padding comes the next one, or the next row (R199). -/
theorem execPadByte_moves {s t : State} (h : execPadByte s = .next t) :
    if s.pcnt.toNat + 1 < s.pad.toNat then
      t.pcnt.toNat = s.pcnt.toNat + 1 ∧ t.phase = .padw ∧ t.row = s.row ∧ t.col = s.col ∧ t.done = s.done
    else t.pcnt = 0 ∧ rowAdvanced s t := by
  obtain ⟨hp, hpcnt, -, -, ⟨hmore, rfl⟩ | ⟨hlast, hnext⟩⟩ := execPadByte_next.mp h
  · rw [if_pos hmore]
    exact ⟨Nat.mod_eq_of_lt (by omega), hp, rfl, rfl, rfl⟩
  · rw [if_neg (Nat.not_lt.mpr hlast)]
    obtain ⟨hrow, rfl⟩ := nextRow_next.mp hnext
    obtain ⟨-, -, -, hzero⟩ := rowAfter_keepsPackers { emitted 0x00#8 s with pcnt := 0 }
    exact ⟨hzero, rowAdvanced_rowAfter (s := { emitted 0x00#8 s with pcnt := 0 }) hrow⟩

/-- The packers' other registers and the header's position are not the padding writer's to move (R199). -/
theorem execPadByte_keepsWork {s t : State} (h : execPadByte s = .next t) :
    t.ch = s.ch ∧ t.acc = s.acc ∧ t.nbits = s.nbits ∧ keepsHeaderPos s t := by
  obtain ⟨-, -, -, -, ⟨-, rfl⟩ | ⟨-, hnext⟩⟩ := execPadByte_next.mp h
  · exact ⟨rfl, rfl, rfl, rfl, rfl⟩
  · obtain ⟨-, rfl⟩ := nextRow_next.mp hnext
    obtain ⟨hch, hacc, hnb, -⟩ := rowAfter_keepsPackers { emitted 0x00#8 s with pcnt := 0 }
    exact ⟨hch, hacc, hnb, rowAfter_keepsHeaderPos { emitted 0x00#8 s with pcnt := 0 }⟩

/-- A selected padding writer that can emit has its step, in whatever state (R199, R204). -/
theorem exists_execPadByte_of_selected {s : State} (hp : s.phase = .padw) (hpcnt : s.pcnt.toNat ≤ 2)
    (hemit : s.canEmit) (hrow : s.row.toNat + 1 < wordSpan) : ∃ t, execPadByte s = .next t := by
  obtain ⟨hbacked, hfits⟩ := hemit
  rcases Nat.lt_or_ge (s.pcnt.toNat + 1) s.pad.toNat with hmore | hlast
  · exact ⟨_, execPadByte_next.mpr ⟨hp, hpcnt, hbacked, hfits, .inl ⟨hmore, rfl⟩⟩⟩
  · exact ⟨_, execPadByte_next.mpr ⟨hp, hpcnt, hbacked, hfits, .inr ⟨hlast, nextRow_next.mpr ⟨hrow, rfl⟩⟩⟩⟩

/-- Settles O30: the padding writer has its step, which emits the zero byte, moves on and leaves the rest to the frame. -/
theorem padByteEmitsZero : Obligations.PadByteEmitsZero := by
  intro s hp hlt hemit hrow
  have hpad := s.pad.isLt
  obtain ⟨t, ht⟩ := exists_execPadByte_of_selected hp (by omega) hemit hrow
  have hframe := execPadByte_frame ht
  obtain ⟨hch, hacc, hnbits, hhdr⟩ := execPadByte_keepsWork ht
  exact ⟨t, ht, execPadByte_emitsByte ht, execPadByte_moves ht, hch, hacc, hnbits, hhdr, hframe.keepsConfig,
    hframe.keepsCommandRegs⟩

/-! ### The changes of `PHASE` -/

theorem pixelPhase_eq (b : BitVec 16) : pixelPhase b = if b.toNat = 1 then .pix1 else .pix24 :=
  if_congr BitVec.toNat_inj.symm rfl rfl

/-- The phase `NextRow` goes to (R200). -/
def State.phaseAfterRow (s : State) : Phase :=
  if s.row.toNat + 1 = s.height.toNat then .idle else pixelPhase s.bpp

/-- The phase `EndRowData` goes to (R198). -/
def State.phaseAfterData (s : State) : Phase := if 0 < s.pad.toNat then .padw else s.phaseAfterRow

theorem rowAdvanced.phase_eq {s t : State} (h : rowAdvanced s t) : t.phase = s.phaseAfterRow := by
  obtain ⟨-, -, hend⟩ := h
  unfold State.phaseAfterRow
  split at hend
  case isTrue hlast => exact hend.1.trans (if_pos hlast).symm
  case isFalse hmore => exact hend.1.trans (if_neg hmore).symm

theorem rowDataEnded.phase_eq {s t : State} (h : rowDataEnded s t) : t.phase = s.phaseAfterData := by
  unfold rowDataEnded at h
  unfold State.phaseAfterData
  split at h
  case isTrue hpad => exact h.1.trans (if_pos hpad).symm
  case isFalse hpad => exact h.1.phase_eq.trans (if_neg hpad).symm

theorem execPk1Flush_phase {s t : State} (h : execPk1Flush s = .next t) :
    t.phase = if s.col = s.width then s.phaseAfterData else .pix1 := by
  obtain ⟨-, -, hend, -⟩ := execPk1Flush_moves h
  split at hend
  case isTrue hcol => exact hend.phase_eq.trans (if_pos hcol).symm
  case isFalse hcol => exact hend.1.trans (if_neg hcol).symm

theorem execPk24Byte_phase {s t : State} (h : execPk24Byte s = .next t) :
    t.phase = if s.ch.toNat = 2 ∧ s.col.toNat + 1 = s.width.toNat then s.phaseAfterData else .pix24 := by
  obtain ⟨hp, hch, -, -, -, -, hadv⟩ := execPk24Byte_next.mp h
  have hmoves := advancePixel_moves (s := emitted (s.sample (sampleIndex24 s)) s) hp hadv
  split at hmoves
  case isTrue hmore =>
    obtain ⟨-, hphase, -⟩ := hmoves
    exact hphase.trans (if_neg fun hends => hmore.ne hends.1).symm
  case isFalse hlast =>
    have hred : s.ch.toNat = 2 := hch.antisymm (Nat.not_lt.mp hlast)
    obtain ⟨-, hend⟩ := hmoves
    split at hend
    case isTrue hcol => exact hend.phase_eq.trans (if_pos ⟨hred, hcol⟩).symm
    case isFalse hcol =>
      obtain ⟨-, hphase, -⟩ := hend
      exact hphase.trans (if_neg fun hends => hcol hends.2).symm

theorem execPadByte_phase {s t : State} (h : execPadByte s = .next t) :
    t.phase = if s.pcnt.toNat + 1 < s.pad.toNat then .padw else s.phaseAfterRow := by
  have hmoves := execPadByte_moves h
  split at hmoves
  case isTrue hmore =>
    obtain ⟨-, hphase, -⟩ := hmoves
    exact hphase.trans (if_pos hmore).symm
  case isFalse hlast =>
    obtain ⟨-, hrow⟩ := hmoves
    exact hrow.phase_eq.trans (if_neg hlast).symm

/-- The header ends with the last lane of the last field (R141). -/
theorem emitField_phase {k v : Nat} {s t : State} (h : emitField k v s = .next t) :
    t.phase =
      if s.fidx.toNat = lastField s.bpp.toNat ∧ s.bidx.toNat + 1 = fieldSize s.fidx.toNat then pixelPhase s.bpp
      else .hdr := by
  obtain ⟨hp, rfl, hlane, -, -, rfl⟩ := emitField_next.mp h
  unfold advanceHeader
  split
  case isTrue hmore => exact hp.trans (if_neg fun hends => hmore.ne hends.2).symm
  case isFalse hlast =>
    have hlast : s.bidx.toNat + 1 = fieldSize s.fidx.toNat := Nat.le_antisymm hlane (Nat.not_lt.mp hlast)
    split
    case isTrue hfield => exact (if_pos ⟨hfield, hlast⟩).symm
    case isFalse hfield => exact hp.trans (if_neg fun hends => hfield hends.1).symm

theorem execEnc_phase {n : BitVec 64} {s t : State} (h : execEnc n s = .next t) :
    t.phase = if s.requiredSamples ≤ n.toNat then .hdr else .idle := by
  obtain ⟨hp, -, -, -, ⟨hshort, rfl⟩ | ⟨hlong, rfl⟩⟩ := execEnc_next.mp h
  · exact hp.trans (if_neg (Nat.not_le.mpr hshort)).symm
  · exact (if_pos hlong).symm

/-- Settles O44: each instruction runs in its one phase, and leaves the phase its own tail gives. -/
theorem phaseTransitionGraph : Obligations.PhaseTransitionGraph := by
  intro i s t h
  rw [← pixelPhase_eq]
  rcases exec_cases h with ⟨w, k, b, rfl, hc⟩ | ⟨n, rfl, hc⟩ | ⟨k, v, hi, hf, -⟩ | ⟨rfl, hm⟩ | ⟨rfl, hm⟩ | ⟨rfl, hm⟩ |
    ⟨rfl, hm⟩
  · rw [(execCfg_next.mp hc).1]
    exact .inl ⟨⟨w, k, b, rfl⟩, (execCfg_frame hc).1⟩
  · rw [(execEnc_next.mp hc).1]
    exact .inr ⟨n, rfl, execEnc_phase hc⟩
  · rw [(emitField_next.mp hf).1]
    exact ⟨hi, emitField_phase hf⟩
  · obtain ⟨hphase, -, -, -, -, rfl⟩ := execPk1Shift_next.mp hm
    rw [hphase]
    exact .inl ⟨rfl, hphase⟩
  · rw [(execPk1Flush_next.mp hm).1]
    exact .inr ⟨rfl, execPk1Flush_phase hm⟩
  · rw [(execPk24Byte_next.mp hm).1]
    exact ⟨rfl, execPk24Byte_phase hm⟩
  · rw [(execPadByte_next.mp hm).1]
    exact ⟨rfl, execPadByte_phase hm⟩

end Sys2Proof.Machine

/-!
PROOFS. The errors (60_exceptions.md): a busy block neither stops nor raises one (R220), and an idle one asks what the host
owes before it checks for one (R228).
-/

namespace Sys2Proof.Machine

/-! ### A busy block -/

/-- With the host standing by, the step is the micro-operation `DISP` selects, run with the host's list as the step leaves
it (R100). -/
theorem step_eq_exec_of_hostStandsBy {s : State} {i : Instr} (hh : s.hostStandsBy) (hi : decodeDisp s.disp = .ok i) :
    ∃ l, step s = exec i { s with host := l } := by
  obtain ⟨hstay, htick⟩ := stepRunsSelectedMicroOperation s i hi
  rcases hh with hh | hh | ⟨rest, hh⟩
  · exact ⟨s.host, hstay (.inl hh)⟩
  · exact ⟨s.host, hstay (.inr hh)⟩
  · exact ⟨rest, htick rest hh⟩

/-- Settles O48: a busy block's `DISP` selects a micro-operation, and the ranges of R49 hold all that it needs, whatever
the host's list. -/
theorem busyBlockNeverStops : Obligations.BusyBlockNeverStops := by
  intro s hs hp hh
  obtain ⟨i, hi⟩ := exists_decodeDisp_of_busy hp
  obtain ⟨l, hstep⟩ := step_eq_exec_of_hostStandsBy hh hi
  obtain ⟨t, ht⟩ := exists_exec_of_decodeDisp (hs.with_host l) hi
  exact ⟨t, hstep.trans ht⟩

/-- Settles O43: the sequencer's frame leaves the three registers alone, and so does a host write to `PIX`. -/
theorem sequencerStepsRaiseNothing : Obligations.SequencerStepsRaiseNothing := by
  intro s t hp hr h
  rcases step_frame_of_busy hp hr h with ⟨rest, hf⟩ | ⟨i, v, rest, rfl⟩
  · exact hf.keepsCommandRegs
  · exact ⟨rfl, rfl, rfl⟩

/-! ### The duties of an idle block's host -/

theorem execCfg_of_outsideDomain {w h : Word} {b : BitVec 16} {s : State} (hp : s.phase = .idle)
    (hd : ¬ inDomain w.toNat h.toNat b.toNat = true) : execCfg w h b s = .refused .outsideDomain :=
  (if_pos hp).trans (if_neg hd)

theorem execEnc_of_notConfigured {s : State} (hp : s.phase = .idle) (hc : s.cfgv = false) (n : BitVec 64) :
    execEnc n s = .refused .notConfigured :=
  (if_pos hp).trans (if_neg (Bool.eq_false_iff.mp hc))

/-- Settles O20: each duty is asked for in its own refusal, before the depth of a `CFG` and the length of an `ENC`. -/
theorem dutiesComeBeforeErrors : Obligations.DutiesComeBeforeErrors := by
  refine fun s hp => ⟨fun w h b hn => ?_, fun hc n => execEnc_of_notConfigured hp hc n, fun hc n _ hsmall => ?_⟩
  · exact execCfg_of_outsideDomain hp fun hd => hn (inDomain_iff_bounds.mp hd)
  · exact execEnc_of_memoryTooSmall hp hc fun ⟨hpix, _⟩ => Nat.not_lt.mpr hpix hsmall

end Sys2Proof.Machine

/-!
PROOFS. Reset and reuse (70_reset_and_hazards.md): the reset step clears the registers and nothing more (R250), and an
accepted `ENC` rewrites whatever an earlier encode has left (R254).
-/

namespace Sys2Proof.Machine

/-! ### Reset -/

theorem step_of_host_reset {s : State} {rest : List HostAction} (hs : s.host = .reset :: rest) :
    step s = .next (resetRegisters { s with host := rest }) := by
  rw [step, fetch, hs]

/-- With no command presented, an idle block does nothing (R250). -/
theorem step_of_idle_host_nil {s : State} (hp : s.phase = .idle) (hs : s.host = []) : step s = .next s :=
  step_of_fetch_settle ((fetch_of_host_nil hs).trans (fetchSequencer_of_idle hp))

/-- Settles O12: the reset step leaves the reset registers, which are those of an idle block. -/
theorem resetStepClearsRegisters : Obligations.ResetStepClearsRegisters := by
  intro s rest hs
  have hstays := step_of_idle_host_nil (resetRegisters_phase { s with host := rest })
  exact ⟨_, step_of_host_reset hs, by simpa using hstays⟩

/-! ### Reuse -/

theorem keepsConfig.requiredSamples_eq {s r : State} (h : keepsConfig s r) : r.requiredSamples = s.requiredSamples := by
  obtain ⟨hw, hh, hb, -⟩ := h
  rw [State.requiredSamples, State.requiredSamples, hw, hh, hb]

theorem keepsConfig.fileBytes_eq {s r : State} (h : keepsConfig s r) : r.fileBytes = s.fileBytes := by
  obtain ⟨-, hh, hb, -, -, hprb⟩ := h
  rw [State.fileBytes, State.fileBytes, State.imageBytes, State.imageBytes, hh, hb, hprb]

/-- The state an accepted `ENC` leaves is made of the configuration, `CFGV`, the memories with their sizes and the host's
list: `DONE`, `OCUR` and all that `startEncode` sets are rewritten (R122, R254). -/
theorem startEncode_congr {s r : State} (n : BitVec 64) (hconfig : keepsConfig s r) (hcfgv : r.cfgv = s.cfgv)
    (hpix : r.pix = s.pix) (hout : r.out = s.out) (hpixSize : r.pixSize = s.pixSize) (houtSize : r.outSize = s.outSize)
    (hhost : r.host = s.host) :
    startEncode n { r with done := false, ocur := 0 } = startEncode n { s with done := false, ocur := 0 } := by
  obtain ⟨hw, hh, hb, hrbu, hpad, hprb⟩ := hconfig
  simp only [startEncode, hw, hh, hb, hrbu, hpad, hprb, hcfgv, hpix, hout, hpixSize, houtSize, hhost]

/-- Settles O21: the checks of an `ENC` read the configuration, `CFGV`, `PHASE` and the sizes, and only its
failing branch keeps what an earlier encode left. -/
theorem acceptedEncForgetsEarlierEncodes : Obligations.AcceptedEncForgetsEarlierEncodes := by
  intro s r t n hconfig hcfgv hphase hpix hout hpixSize houtSize hhost h hhdr
  obtain ⟨hidle, hvalid, hsamples, hfile, ⟨-, rfl⟩ | ⟨hlong, rfl⟩⟩ := execEnc_next.mp h
  case inl => exact nomatch hidle.symm.trans hhdr
  case inr =>
    refine execEnc_next.mpr ⟨hphase.trans hidle, hcfgv.trans hvalid, hpixSize ▸ hsamples, ?_, .inr ⟨?_, ?_⟩⟩
    · rwa [hconfig.fileBytes_eq, houtSize]
    · rwa [hconfig.requiredSamples_eq]
    · exact (startEncode_congr n hconfig hcfgv hpix hout hpixSize houtSize hhost).symm

end Sys2Proof.Machine
